-- ==== Sys2Proof/Word.lean ====
section
/-! DEFINITION. The word types of the translator (R90: every address, index and length is a fixed-width unsigned integer). -/

namespace Sys2Proof

/-- One byte of a byte string (R60). -/
abbrev Byte := BitVec 8

/-- A 32-bit address, offset or length (R5, R94, R95). -/
abbrev Word32 := BitVec 32

/-- A 48-bit logical address (R91). -/
abbrev LogicalAddr := BitVec 48

/-- A 128-bit command word (R96). -/
abbrev CmdWord := BitVec 128

/-- A 64-bit value of `CLOCK` or of a timestamp field (R31, R33, R38). -/
abbrev Stamp := BitVec 64

end Sys2Proof
end

