-- ==== Sys2Proof/Syntax.lean ====
section
/-! DEFINITION. The seven commands of R104 and the items the host presents on the request port. -/

namespace Sys2Proof

/-- One command: one row of the opcode map of R104, with its operands. -/
inductive Instr where
  /-- READ, format A (R97): logical address and byte count. -/
  | read (la : LogicalAddr) (len : Word32)
  /-- WRITE, format W (R98): physical address, byte count, and the payload. -/
  | write (pa len : Word32) (data : List Byte)
  /-- REGSEG, format R (R99): selector index and the four fields of a packed descriptor. -/
  | regseg (index : BitVec 13) (base diskBase : Word32) (limit : BitVec 31) (valid : Bool)
  /-- INVSEG, format I (R100): selector index. -/
  | invseg (index : BitVec 13)
  /-- INVPAGE, format P (R101): virtual page number. -/
  | invpage (vpn : Word32)
  /-- CLEAR, format N (R102). -/
  | clear
  /-- SETMODE, format M (R103): the two mode flags. -/
  | setmode (seg pag : Bool)
deriving DecidableEq, Repr

/-- The opcode of a command (R104). -/
def Instr.opcode : Instr → BitVec 4
  | .read _ _ => 0
  | .write _ _ _ => 1
  | .regseg _ _ _ _ _ => 2
  | .invseg _ => 3
  | .invpage _ => 4
  | .clear => 5
  | .setmode _ _ => 6

/-- One thing the host presents: a command word (R96), a payload byte (R98), or the reset event (R270, log entry 8). -/
inductive Input where
  | word (w : CmdWord)
  | byte (b : Byte)
  | reset
deriving DecidableEq, Repr

end Sys2Proof
end

