-- ==== Sys2Proof/WellFormed.lean ====
section
/-! DEFINITION. Which terms of `Instr` are commands of the spec. Every operand but WRITE's payload is bounded by its type. -/

namespace Sys2Proof

/-- A command is well formed when WRITE's payload has `LEN` bytes (R98). -/
def Instr.wellFormed : Instr → Bool
  | .write _ len data => data.length == len.toNat
  | .read _ _ => true
  | .regseg _ _ _ _ _ => true
  | .invseg _ => true
  | .invpage _ => true
  | .clear => true
  | .setmode _ _ => true

end Sys2Proof
end

