-- ==== Sys2Proof/Decode.lean ====
section
/-! DEFINITION. The decoder of command words (R96 to R106), total, rejecting by name, and the encoder. -/

namespace Sys2Proof

/-- Bits `lo + n - 1` down to `lo` of a command word (R7). -/
def bitField (w : CmdWord) (lo n : Nat) : BitVec n := w.extractLsb' lo n

/-- The opcode `OP`, bits 127:124 (R96). -/
def opOf (w : CmdWord) : BitVec 4 := bitField w 124 4

/-- Why a port sequence starts with no command. -/
inductive Reject where
  /-- Nothing is presented, or the reset event stands first. -/
  | noCommand
  /-- The word's opcode is one of 7 to 15 (R105). -/
  | reservedOpcode (op : BitVec 4)
  /-- A WRITE word whose payload has not all been presented yet (log entry 6). -/
  | payloadPending
  /-- A WRITE word whose payload is broken off by another word or by reset (log entry 7). -/
  | payloadCutShort
  /-- A payload byte where a command word must stand (log entry 7). -/
  | strayByte
deriving DecidableEq, Repr

/-- The next `n` payload bytes, and what follows them (R98). -/
def takePayload : Nat → List Input → Except Reject (List Byte × List Input)
  | 0, rest => .ok ([], rest)
  | n + 1, .byte b :: rest =>
    match takePayload n rest with
    | .ok (bs, rest') => .ok (b :: bs, rest')
    | .error e => .error e
  | _ + 1, [] => .error .payloadPending
  | _ + 1, .word _ :: _ => .error .payloadCutShort
  | _ + 1, .reset :: _ => .error .payloadCutShort

/-- READ's operands (R97). -/
def decodeRead (w : CmdWord) : Instr := .read (bitField w 32 48) (bitField w 0 32)

/-- REGSEG's operands (R99, R34). -/
def decodeRegseg (w : CmdWord) : Instr :=
  .regseg (bitField w 96 13) (bitField w 64 32) (bitField w 32 32) (bitField w 1 31)
    (bitField w 0 1 == 1)

/-- INVSEG's operand (R100). -/
def decodeInvseg (w : CmdWord) : Instr := .invseg (bitField w 0 13)

/-- INVPAGE's operand (R101). -/
def decodeInvpage (w : CmdWord) : Instr := .invpage (bitField w 0 32)

/-- SETMODE's operands (R103). -/
def decodeSetmode (w : CmdWord) : Instr := .setmode (bitField w 0 1 == 1) (bitField w 1 1 == 1)

/-- WRITE's operands, the payload taken from what follows the word (R98). -/
def decodeWrite (w : CmdWord) (rest : List Input) : Except Reject (Instr × List Input) :=
  match takePayload (bitField w 0 32).toNat rest with
  | .ok (bs, rest') => .ok (.write (bitField w 32 32) (bitField w 0 32) bs, rest')
  | .error e => .error e

/-- The command a word starts, and what follows the command (R104, R108). Reserved bits are not looked at (R106). -/
def decodeWord (w : CmdWord) (rest : List Input) : Except Reject (Instr × List Input) :=
  if opOf w = 0 then .ok (decodeRead w, rest)
  else if opOf w = 1 then decodeWrite w rest
  else if opOf w = 2 then .ok (decodeRegseg w, rest)
  else if opOf w = 3 then .ok (decodeInvseg w, rest)
  else if opOf w = 4 then .ok (decodeInvpage w, rest)
  else if opOf w = 5 then .ok (.clear, rest)
  else if opOf w = 6 then .ok (decodeSetmode w, rest)
  else .error (.reservedOpcode (opOf w))

/-- The command at the front of the request port, and what follows it. -/
def decode : List Input → Except Reject (Instr × List Input)
  | [] => .error .noCommand
  | .reset :: _ => .error .noCommand
  | .byte _ :: _ => .error .strayByte
  | .word w :: rest => decodeWord w rest

/-- One bit of a command word. -/
def flagBit (b : Bool) : BitVec 1 := if b then 1 else 0

/-- The operand `x` with its least significant bit at bit `lo` of a command word (R7). -/
def placeField {n : Nat} (x : BitVec n) (lo : Nat) : CmdWord := x.setWidth 128 <<< lo

/-- The 96-bit packed form of a descriptor's four document fields, as it lies in bits 95:0 of a REGSEG word (R34, R99). -/
def packDescriptor (base diskBase : Word32) (limit : BitVec 31) (valid : Bool) : CmdWord :=
  placeField base 64 ||| placeField diskBase 32 ||| placeField limit 1 |||
    placeField (flagBit valid) 0

/-- The operand bits of a command, at the places of its format (R97 to R103). -/
def operandField : Instr → CmdWord
  | .read la len => placeField la 32 ||| placeField len 0
  | .write pa len _ => placeField pa 32 ||| placeField len 0
  | .regseg index base diskBase limit valid =>
    placeField index 96 ||| packDescriptor base diskBase limit valid
  | .invseg index => placeField index 0
  | .invpage vpn => placeField vpn 0
  | .clear => 0
  | .setmode seg pag => placeField (flagBit pag) 1 ||| placeField (flagBit seg) 0

/-- The command word of a command, reserved bits zero (R96, R104, R106). -/
def encodeWord (i : Instr) : CmdWord := placeField i.opcode 124 ||| operandField i

/-- The payload bytes that follow the word (R96, R98). -/
def Instr.payload : Instr → List Byte
  | .write _ _ data => data
  | .read _ _ => []
  | .regseg _ _ _ _ _ => []
  | .invseg _ => []
  | .invpage _ => []
  | .clear => []
  | .setmode _ _ => []

/-- What the host presents for a command: its word, then its payload (R96). -/
def encode (i : Instr) : List Input := .word (encodeWord i) :: i.payload.map .byte

/-- The port items of a table word of `nbits` bits: the word, and for WRITE the payload of zero bytes its `LEN` field asks for. -/
def tableItems (nbits w : Nat) : List Input :=
  let word : CmdWord := BitVec.ofNat 128 (w % 2 ^ nbits)
  .word word :: (if opOf word = 1 then List.replicate (bitField word 0 32).toNat (.byte 0) else [])

/-- The command the decoder reads from a word numbered as the opcode table numbers it. -/
def decodeTableWord (nbits w : Nat) : Option Instr :=
  match decode (tableItems nbits w) with
  | .ok (i, _) => some i
  | .error _ => none

end Sys2Proof
end

