-- ==== Sys2Proof/Machine/Sparse.lean ====
section
/-! DEFINITION. Sparse tables: plain data for a table over the natural numbers whose unlisted entries all hold one default value. ResidentMemory, the backing store's contents and the three tables of R32, R35, R37 are held so. -/

namespace Sys2Proof.Machine

/-- A list of (index, value) pairs; an index that is not listed holds the table's default. -/
abbrev Sparse (α : Type) := List (Nat × α)

/-- The canonical form: indices strictly rising, and no entry equal to the default `d`. -/
abbrev Sparse.wf {α : Type} [DecidableEq α] (d : α) (t : Sparse α) : Prop :=
  t.Pairwise (fun p q => p.1 < q.1) ∧ ∀ p ∈ t, p.2 ≠ d

/-- The value at index `a`. -/
def Sparse.get {α : Type} (d : α) : Sparse α → Nat → α
  | [], _ => d
  | (k, v) :: rest, a => if k = a then v else Sparse.get d rest a

/-- The entries that list the values `vs` from index `a` on, the default left out. -/
def Sparse.listed {α : Type} [DecidableEq α] (d : α) (a : Nat) (vs : List α) : Sparse α :=
  ((List.range' a vs.length).zip vs).filter (fun p => p.2 ≠ d)

/-- The table with the values `vs` at the indices `a`, `a + 1`, … and every other index unchanged. -/
def Sparse.setRange {α : Type} [DecidableEq α] (d : α) (t : Sparse α) (a : Nat) (vs : List α) :
    Sparse α :=
  t.filter (fun p => p.1 < a) ++ Sparse.listed d a vs ++ t.filter (fun p => a + vs.length ≤ p.1)

/-- The table with `v` at index `a` and every other index unchanged. -/
def Sparse.set {α : Type} [DecidableEq α] (d : α) (t : Sparse α) (a : Nat) (v : α) : Sparse α :=
  Sparse.setRange d t a [v]

/-- A byte memory: a sparse table of bytes (`Host.Cell` is the type of its entries). -/
abbrev Memory := List Host.Cell

/-- What an unlisted address of a memory reads as. DESIGN CHOICE (log entry 3): zero; the contents after reset are the parameter `MEM_INIT` of R272, which lists whatever is not zero. -/
def Memory.unlisted : Byte := 0

/-- The canonical form of a memory. -/
abbrev Memory.wf (m : Memory) : Prop := Sparse.wf Memory.unlisted m

/-- The byte at address `a`. -/
def Memory.read (m : Memory) (a : Nat) : Byte := Sparse.get Memory.unlisted m a

/-- The `n` bytes at `a`, `a + 1`, …, in ascending address order (R9, R60). -/
def Memory.readRange (m : Memory) (a n : Nat) : List Byte := (List.range' a n).map (Memory.read m)

/-- The memory with byte `k` of `vs` at address `a + k`, and every other byte unchanged (R9, R60). -/
def Memory.write (m : Memory) (a : Nat) (vs : List Byte) : Memory :=
  Sparse.setRange Memory.unlisted m a vs

end Sys2Proof.Machine
end

