-- ==== Sys2Proof/Config.lean ====
section
/-! DEFINITION. What one translator fixes: the parameters of R5 with their constraints, and the one value the spec leaves open. -/

namespace Sys2Proof

/-- The parameters of R5. The three sizes are powers of two, so their exponents are held (log entry 1); the contents of the backing store and of ResidentMemory after reset are byte tables (log entries 2, 3). -/
structure Config where
  /-- `OFFSET_BITS`: `PAGE_SIZE = 2 ^ pageBits`. -/
  pageBits : Nat
  /-- `MEM_SIZE = 2 ^ memBits`. -/
  memBits : Nat
  /-- `DISK_SIZE = 2 ^ diskBits`. -/
  diskBits : Nat
  /-- `NUM_SEGMENTS`. -/
  numSegments : Nat
  /-- `Disk`, the contents of the backing store (R66). -/
  disk : Machine.Memory
  /-- `MEM_INIT`, the contents of ResidentMemory after reset (R272). -/
  memInit : Machine.Memory
deriving DecidableEq, Repr

/-- `PAGE_SIZE`: bytes per page and per frame (R5). -/
def Config.pageSize (c : Config) : Nat := 2 ^ c.pageBits

/-- `MEM_SIZE`: capacity of ResidentMemory in bytes (R5). -/
def Config.memSize (c : Config) : Nat := 2 ^ c.memBits

/-- `DISK_SIZE`: capacity of the backing store in bytes (R5). -/
def Config.diskSize (c : Config) : Nat := 2 ^ c.diskBits

/-- `NUM_FRAMES = MEM_SIZE / PAGE_SIZE` (R5). -/
def Config.numFrames (c : Config) : Nat := c.memSize / c.pageSize

/-- `NUM_VPAGES = DISK_SIZE / PAGE_SIZE` (R5). -/
def Config.numVPages (c : Config) : Nat := c.diskSize / c.pageSize

/-- The constraints of R5. No hardware of the spec exists outside them (93 U12). -/
abbrev Config.wf (c : Config) : Prop :=
  c.pageBits ≤ c.memBits ∧ c.memBits ≤ 32 ∧ c.pageBits ≤ c.diskBits ∧ c.diskBits ≤ 32 ∧
  1 ≤ c.numSegments ∧ c.numSegments ≤ 8192 ∧
  Machine.Memory.wf c.disk ∧ (∀ p ∈ c.disk, p.1 < c.diskSize) ∧
  Machine.Memory.wf c.memInit ∧ (∀ p ∈ c.memInit, p.1 < c.memSize)

/-- The reference values of R5 and R6, with a zero backing store and zero memory. DESIGN CHOICE (log entries 1, 2, 3): the spec makes all six parameters arguments. -/
def Config.reference : Config :=
  ⟨10, 25, 27, 8192, [], []⟩

/-- FREE VALUE (log entry 12): what a 32-bit register holds, or a 32-bit port carries, that is given a number which does not fit 32 bits. The spec states the number and the width (R21, R33, R111) and no wrap-around (R8); it arises only where a space, or a page, has 2^32 bytes. Nothing is known of it. -/
opaque Config.unfit32 : Nat → Word32

end Sys2Proof
end

