-- ==== Sys2Proof/Machine/State.lean ====
section
/-! DEFINITION. The state of the translator (R20), all of it plain data, and the state after reset (R47, R271). -/

namespace Sys2Proof.Machine

/-- The result of a command: `OK` or one of the error kinds (R107, R241). -/
inductive Status where
  | ok
  | invalidAddress
  /-- The error kind `SegmentFault(index)`, which is not the segment fault of R251 (R240). -/
  | segmentFault
  | crossSegmentRead
  | outOfMemory
  | internalConsistency
  | badRequest
deriving DecidableEq, Repr

/-- The 3-bit code of a status (R107). Code 7 is never produced. -/
def Status.code : Status → BitVec 3
  | .ok => 0
  | .invalidAddress => 1
  | .segmentFault => 2
  | .crossSegmentRead => 3
  | .outOfMemory => 4
  | .internalConsistency => 5
  | .badRequest => 6

/-- The states of the sequencer register `FSM_STATE` (R23). -/
inductive Fsm where
  | idle
  | decode
  | segmentLookup
  | segmentFault
  | linearCompute
  | pageLookup
  | pageFault
  | physicalCompute
  | access
  | done
deriving DecidableEq, Repr

/-- The 4-bit code of a sequencer state (R23). Codes 10 to 15 are never held. -/
def Fsm.code : Fsm → BitVec 4
  | .idle => 0
  | .decode => 1
  | .segmentLookup => 2
  | .segmentFault => 3
  | .linearCompute => 4
  | .pageLookup => 5
  | .pageFault => 6
  | .physicalCompute => 7
  | .access => 8
  | .done => 9

/-- The control register `MODE` (R28). -/
structure Mode where
  seg : Bool
  pag : Bool
deriving DecidableEq, Repr

/-- One segment descriptor `ST[i]` (R33). -/
structure Descriptor where
  populated : Bool
  base : Word32
  diskBase : Word32
  limit : BitVec 31
  valid : Bool
  ts : Stamp
deriving DecidableEq, Repr

/-- A descriptor after reset or CLEAR (R47, R224). -/
def Descriptor.empty : Descriptor := ⟨false, 0, 0, 0, false, 0⟩

/-- One page-table entry `PT[v]` (R36). -/
structure PageEntry where
  populated : Bool
  resident : Bool
  frame : Nat
deriving DecidableEq, Repr

/-- A page-table entry after reset or CLEAR (R47, R224). -/
def PageEntry.empty : PageEntry := ⟨false, false, 0⟩

/-- One reverse-page-table entry `RPT[f]` (R38). -/
structure FrameEntry where
  resident : Bool
  owner : Nat
  ts : Stamp
deriving DecidableEq, Repr

/-- A reverse-page-table entry after reset or CLEAR (R47, R224). -/
def FrameEntry.empty : FrameEntry := ⟨false, 0, 0⟩

/-- One external event of the output trace (R11), with the 32-bit address and the 32-bit length its port carries (R111). -/
inductive Event where
  /-- `BsRead(off, n)`: a read of `n` bytes at backing-store offset `off` (R66). -/
  | bsRead (off n : Word32)
  /-- `Notice(addr, n)`: the sink is told that `[addr, addr + n)` changed (R64, R68). -/
  | notice (addr n : Word32)
deriving DecidableEq, Repr

/-- The per-request sequencer state: `FSM_STATE`, `STATUS`, the request latches and the working registers (R20, R21, R23, R25). -/
structure Seq where
  fsm : Fsm
  status : Status
  reqOp : BitVec 4
  reqLA : LogicalAddr
  reqLen : Word32
  sel : BitVec 13
  off : Word32
  lin : Word32
  remain : Word32
  vpn : Nat
  poff : Nat
  frame : Nat
  phys : Word32
  result : List Byte
  /-- The model's own record: the sequencer states the last command visited, in order (R121, R135; log entry 9). -/
  path : List Fsm
deriving DecidableEq, Repr

/-- The sequencer after reset: IDLE and OK (R47); the latches and working registers hold zero. DESIGN CHOICE (log entry 4): the spec leaves their reset values unspecified. -/
def Seq.reset : Seq := ⟨.idle, .ok, 0, 0, 0, 0, 0, 0, 0, 0, 0, 0, 0, [], []⟩

/-- The state of one translator. -/
structure State where
  /-- The parameters of R5, which no step changes (log entry 1). -/
  cfg : Config
  mode : Mode
  clock : Stamp
  /-- `FATAL` (R26). -/
  fatal : Bool
  /-- The segment table `ST` (R32). -/
  st : Sparse Descriptor
  /-- The page table `PT` (R35). -/
  pt : Sparse PageEntry
  /-- The reverse page table `RPT` (R37). -/
  rpt : Sparse FrameEntry
  /-- ResidentMemory `MEM` (R39). -/
  mem : Memory
  seq : Seq
  /-- The output trace, a record the translator never reads (R11, R20; log entry 13). -/
  trace : List Event
  /-- What the host presents next on the request port (log entry 5). -/
  input : List Input
deriving DecidableEq, Repr

/-- Why a step stops with a fault. Each is met only in a state that breaks an invariant of the spec (R42, R46), where the spec defines no result (93 U11; log entry 11). Stopping is safe. -/
inductive Fault where
  /-- `MemRead` or `MemWrite` was asked for bytes outside `[0, MEM_SIZE)` (R63, R64, R139). Raised by READ in a state that breaks I-SEG or holds a frame outside the table. Safe. -/
  | memoryOutOfRange
  /-- `DiskRead` was asked for bytes outside `[0, DISK_SIZE)` (R66, R139). Raised by READ in a state that breaks I-DISK. Safe. -/
  | diskOutOfRange
  /-- A page entry outside the page table was to be written (R35). Raised by READ in a state that breaks I-DISK. Safe. -/
  | pageOutOfTable
  /-- No gap was found after compaction, against R169. Raised by READ in a state that breaks I-SEG. Safe. -/
  | noGapAfterCompaction
deriving DecidableEq, Repr

/-- Why a step is refused. -/
inductive Refusal where
  /-- The command has no meaning in the model. Raised by an arm of `exec` alone. Safe. -/
  | notModelled (mnemonic : String)
  /-- The host offers something while `BUSY = 1`, outside the set of runs (R27, R280, 93 U6). Raised by `step`. Safe. -/
  | busy
  /-- The host presents a payload byte where a command word must stand (R96, R98; log entry 7). Raised by `step`. Safe. -/
  | strayPayload
  /-- The host breaks off a WRITE's payload by another word or by reset (R98, R270, 93 U7; log entry 7). Raised by `step`. Safe. -/
  | payloadCutShort
deriving DecidableEq, Repr

/-- The state after reset of a translator with parameters `c` (R47, R271, R272). -/
def State.init (c : Config) : State where
  cfg := c
  mode := ⟨false, false⟩
  clock := 0
  fatal := false
  st := []
  pt := []
  rpt := []
  mem := c.memInit
  seq := Seq.reset
  trace := []
  input := []

/-- The state after reset under the reference parameters of R6 (log entries 1, 2, 3). -/
def State.reset : State := State.init Config.reference

end Sys2Proof.Machine
end

