-- ==== Sys2Proof/Machine/Flags.lean ====
section
/-! DEFINITION. The two flags of the translator, STATUS and FATAL, and how a command's work ends: with a value, with an error that is its status, or with a fault of the model. The translator has no arithmetic condition codes (R25). -/

namespace Sys2Proof.Machine

/-- What a piece of a command's work comes to. -/
inductive Res (α : Type) where
  /-- It completes with the value `a` in state `s`. -/
  | ok (a : α) (s : State)
  /-- It raises the error `k`; what was changed before stays in `s` (R9 `raise`, R247). -/
  | raised (k : Status) (s : State)
  /-- It asks for a stamp while CLOCK is at its last value: the whole command is to be refused (R31, 93 U9). -/
  | exhausted
  /-- The model stops (log entry 11). -/
  | stop (f : Fault)
deriving DecidableEq, Repr

/-- Go on with `g` where `r` completes. -/
def Res.bind {α β : Type} (r : Res α) (g : α → State → Res β) : Res β :=
  match r with
  | .ok a s => g a s
  | .raised k s => .raised k s
  | .exhausted => .exhausted
  | .stop f => .stop f

/-- Raise `InternalConsistency` from a check: `FATAL <- 1` (R26, R193, R246). -/
def raiseFatal {α : Type} (s : State) : Res α :=
  .raised .internalConsistency { s with fatal := true }

/-- The `FATAL` gate that every command passes first (R26, R122, R250). -/
def fatalGate (s : State) : Res Unit :=
  if s.fatal then .raised .internalConsistency s else .ok () s

end Sys2Proof.Machine
end

