-- ==== Sys2Proof/Machine/Operands.lean ====
section
/-! DEFINITION. Operand forms: the fields of a logical address, the split of a linear address, and the derived functions of a descriptor. -/

namespace Sys2Proof.Machine

/-- `SEL`, bits 47:35 of a logical address (R91, R92). -/
def selOf (la : LogicalAddr) : BitVec 13 := la.extractLsb' 35 13

/-- `OFF`, bits 31:0 of a logical address (R91, R92). Bits 34:32 are not read (R93). -/
def offOf (la : LogicalAddr) : Word32 := la.extractLsb' 0 32

/-- A logical address with its reserved bits 34:32 zero: `SEL * 2^35 + OFF` (R91, R93). -/
def withoutReserved (la : LogicalAddr) : LogicalAddr :=
  (selOf la).setWidth 48 <<< 35 ||| (offOf la).setWidth 48

/-- `VPN` of a linear address (R94). -/
def vpnOf (c : Config) (lin : Nat) : Nat := lin / c.pageSize

/-- `POFF` of a linear address (R94). -/
def poffOf (c : Config) (lin : Nat) : Nat := lin % c.pageSize

/-- How many of the next `remain` bytes lie in the page of `lin` (R130). -/
def chunkSize (c : Config) (lin remain : Nat) : Nat := min remain (c.pageSize - poffOf c lin)

/-- What a 32-bit register holds, or a 32-bit port carries, that is given the number `n`: `n` where it fits. FREE VALUE where it does not (log entry 12). -/
def toReg32 (n : Nat) : Word32 := if n < 2 ^ 32 then BitVec.ofNat 32 n else Config.unfit32 n

/-- `FirstPage(d)` (R10). -/
def firstPage (c : Config) (d : Descriptor) : Nat := d.diskBase.toNat / c.pageSize

/-- `LastPage(d)`, defined for `d.limit ≥ 1` (R10). -/
def lastPage (c : Config) (d : Descriptor) : Nat :=
  (d.diskBase.toNat + d.limit.toNat - 1) / c.pageSize

/-- `PageCount(d)` (R10). -/
def pageCount (c : Config) (d : Descriptor) : Nat :=
  if d.limit = 0 then 0 else lastPage c d - firstPage c d + 1

/-- `ceil_half` (R8). -/
def ceilHalf (p : Nat) : Nat := (p + 1) / 2

/-- `HalfCount(d)` (R10). -/
def halfCount (c : Config) (d : Descriptor) : Nat := ceilHalf (pageCount c d)

/-- `RegionSize(d)` under `MODE.PAG = pag` (R10). -/
def regionSize (c : Config) (pag : Bool) (d : Descriptor) : Nat :=
  if pag then halfCount c d * c.pageSize else d.limit.toNat

/-- `RegionSize(d)` under the current mode (R10, R28). -/
def State.regionSize (s : State) (d : Descriptor) : Nat :=
  Sys2Proof.Machine.regionSize s.cfg s.mode.pag d

end Sys2Proof.Machine
end

