-- ==== Sys2Proof/Machine/Registers.lean ====
section
/-! DEFINITION. Named reads and writes of the state: the three tables, ResidentMemory, the sequencer's register, MODE's image and the response. -/

namespace Sys2Proof.Machine

/-- `BUSY`, a predicate and not a stored bit (R27). -/
def State.busy (s : State) : Bool := s.seq.fsm != .idle

/-- The 2-bit image of `MODE`, `PAG` in bit 1 and `SEG` in bit 0 (R28). -/
def Mode.bits (m : Mode) : BitVec 2 := BitVec.ofBool m.pag ++ BitVec.ofBool m.seg

/-- A response: the status and the data string (R107). -/
structure Response where
  status : Status
  data : List Byte
deriving DecidableEq, Repr

/-- The response to the last command: data only for READ with status `OK` (R107). -/
def State.response (s : State) : Response :=
  ⟨s.seq.status, if s.seq.status = .ok ∧ s.seq.reqOp = 0 then s.seq.result else []⟩

/-- `ST[i]`. -/
def State.seg (s : State) (i : Nat) : Descriptor := Sparse.get Descriptor.empty s.st i

/-- `PT[v]`. -/
def State.page (s : State) (v : Nat) : PageEntry := Sparse.get PageEntry.empty s.pt v

/-- `RPT[f]`. -/
def State.frame (s : State) (f : Nat) : FrameEntry := Sparse.get FrameEntry.empty s.rpt f

/-- `MEM[a]`. -/
def State.byte (s : State) (a : Nat) : Byte := Memory.read s.mem a

/-- `ST[i] <- d`. -/
def State.setSeg (s : State) (i : Nat) (d : Descriptor) : State :=
  { s with st := Sparse.set Descriptor.empty s.st i d }

/-- `PT[v] <- e`. -/
def State.setPage (s : State) (v : Nat) (e : PageEntry) : State :=
  { s with pt := Sparse.set PageEntry.empty s.pt v e }

/-- `RPT[f] <- e`. -/
def State.setFrame (s : State) (f : Nat) (e : FrameEntry) : State :=
  { s with rpt := Sparse.set FrameEntry.empty s.rpt f e }

/-- The sequencer moves to state `q` (R23, R121). -/
def State.enter (s : State) (q : Fsm) : State :=
  { s with seq := { s.seq with fsm := q, path := s.seq.path ++ [q] } }

end Sys2Proof.Machine
end

