-- ==== Sys2Proof/Machine/Ops.lean ====
section
/-! DEFINITION. The shared operations: accepting a command, error entry and the end of a command, the access primitives of R9, and the stamp. -/

namespace Sys2Proof.Machine

/-! ## Accepting a command, and ending it -/

/-- IDLE accepts a command word: its opcode is latched and the sequencer moves to DECODE (R21, R121). -/
def State.accept (s : State) (op : BitVec 4) : State :=
  ({ s with seq := { s.seq with reqOp := op, path := [] } }).enter .decode

/-- The latches of READ's operands (R21). The reserved bits of the address are not stored: their places in `REQ_LA` hold zero (R93, log entry 17). -/
def State.latchRead (s : State) (la : LogicalAddr) (len : Word32) : State :=
  { s with seq := { s.seq with reqLA := withoutReserved la, reqLen := len } }

/-- The latch of WRITE's length operand (R21). -/
def State.latchLen (s : State) (len : Word32) : State :=
  { s with seq := { s.seq with reqLen := len } }

/-- The end of every command: `STATUS` is written, the sequencer goes to DONE, the response is taken, and the sequencer returns to IDLE (R25, R121, R132). With `k` an error this is error entry (R253), the translator's one exception entry, and the return from it: nothing else is saved and nothing is restored (R253, R254). -/
def State.respond (s : State) (k : Status) : State :=
  let s := ({ s with seq := { s.seq with status := k } }).enter .done
  { s with seq := { s.seq with fsm := .idle } }

/-- The answer to a command that would take CLOCK past its last value: it is refused whole. `entry` is the state in which its work began; nothing is changed there but that `FATAL` is set, and the status is `InternalConsistency` (R31, 93 U9; log entry 10). -/
def refuseWrap (entry : State) : State := ({ entry with fatal := true }).respond .internalConsistency

/-- The outcome of a command whose work began in state `entry`, from what the work came to (R121, R132, R253). -/
def Res.finish (entry : State) (r : Res Unit) : Host.Outcome State Fault Refusal :=
  match r with
  | .ok _ s => .next (s.respond .ok)
  | .raised k s => .next (s.respond k)
  | .exhausted => .next (refuseWrap entry)
  | .stop f => .fault f

/-- One whole command: accepted with opcode `op` and latches `latch`, gated by `FATAL`, then `work` (R26, R121, R250). -/
def runCommand (op : BitVec 4) (latch : State → State) (work : State → Res Unit) (s : State) :
    Host.Outcome State Fault Refusal :=
  let entry := latch (s.accept op)
  ((fatalGate entry).bind fun _ s => work s).finish entry

/-- A command word with a reserved opcode: `BadRequest`, nothing else (R105, R250). -/
def execReserved (op : BitVec 4) (s : State) : Host.Outcome State Fault Refusal :=
  runCommand op id (fun s => .raised .badRequest s) s

/-! ## Access primitives -/

/-- An event is appended to the output trace (R11). -/
def State.emit (s : State) (e : Event) : State := { s with trace := s.trace ++ [e] }

/-- `MemRead(addr, n)` (R63). -/
def memRead (addr n : Nat) (s : State) : Res (List Byte) :=
  if s.cfg.memSize < addr + n then .stop .memoryOutOfRange
  else .ok (Memory.readRange s.mem addr n) s

/-- `MemWrite(addr, n, v)` with `n` the length of `v` (R64); the notice carries 32-bit numbers (R111). -/
def memWrite (addr : Nat) (v : List Byte) (s : State) : Res Unit :=
  if s.cfg.memSize < addr + v.length then .stop .memoryOutOfRange
  else if v = [] then .ok () s
  else .ok () (({ s with mem := Memory.write s.mem addr v }).emit
    (.notice (toReg32 addr) (toReg32 v.length)))

/-- `DiskRead(off, n)` (R66); the event carries 32-bit numbers (R111). -/
def diskRead (off n : Nat) (s : State) : Res (List Byte) :=
  if s.cfg.diskSize < off + n then .stop .diskOutOfRange
  else .ok (Memory.readRange s.cfg.disk off n) (s.emit (.bsRead (toReg32 off) (toReg32 n)))

/-! ## Stamps -/

/-- `Stamp()` (R31): `CLOCK` moves on by one and its new value is returned. At its last value `CLOCK` does not wrap: the command that asks is refused whole (93 U9, log entry 10). -/
def stamp (s : State) : Res Stamp :=
  if s.clock = BitVec.allOnes 64 then .exhausted
  else .ok (s.clock + 1) { s with clock := s.clock + 1 }

/-- `ST[i].ts <- Stamp()` (R125, R126). -/
def stampSegment (i : Nat) (s : State) : Res Unit :=
  (stamp s).bind fun t s => .ok () (s.setSeg i { s.seg i with ts := t })

/-- `RPT[f].ts <- Stamp()` (R199). -/
def stampFrame (f : Nat) (s : State) : Res Unit :=
  (stamp s).bind fun t s => .ok () (s.setFrame f { s.frame f with ts := t })

end Sys2Proof.Machine
end

