-- ==== Sys2Proof/Machine/SegmentTable.lean ====
section
/-! DEFINITION. The segment table's allocation policy: gaps, first-fit, compaction, LRU eviction (R160 to R172). -/

namespace Sys2Proof.Machine

/-- The valid descriptors with their selectors. An unlisted descriptor is unpopulated and not valid (R33), so the listed ones are all there are. -/
def validEntries (s : State) : Sparse Descriptor := s.st.filter (fun p => p.2.valid)

/-- Ascending base, ties by ascending selector (R161). -/
abbrev baseBefore (p q : Nat × Descriptor) : Prop :=
  p.2.base < q.2.base ∨ p.2.base = q.2.base ∧ p.1 ≤ q.1

/-- Ascending timestamp, ties by ascending selector (R164). -/
abbrev stampBefore (p q : Nat × Descriptor) : Prop :=
  p.2.ts < q.2.ts ∨ p.2.ts = q.2.ts ∧ p.1 ≤ q.1

/-- The valid descriptors in the order of `ValidOrder` (R161). -/
def byBase (s : State) : Sparse Descriptor := (validEntries s).insertionSort baseBefore

/-- `ValidOrder` (R161). -/
def validOrder (s : State) : List Nat := (byBase s).map Prod.fst

/-- `VictimOrder` (R164). -/
def victimOrder (s : State) : List Nat :=
  ((validEntries s).insertionSort stampBefore).map Prod.fst

/-- The free ranges (start, end) from `cur` on, between the regions (base, size) and up to `top` (R161). -/
def gapsFrom (top : Nat) : List (Nat × Nat) → Nat → List (Nat × Nat)
  | [], cur => if cur < top then [(cur, top)] else []
  | (b, r) :: rest, cur =>
    if r = 0 then gapsFrom top rest cur
    else if cur < b then (cur, b) :: gapsFrom top rest (b + r)
    else gapsFrom top rest (b + r)

/-- The regions (base, size) of the valid descriptors in `ValidOrder` (R10, R161). -/
def regions (s : State) : List (Nat × Nat) :=
  (byBase s).map fun p => (p.2.base.toNat, s.regionSize p.2)

/-- `Gaps()` (R161). -/
def gaps (s : State) : List (Nat × Nat) := gapsFrom s.cfg.memSize (regions s) 0

/-- `TotalFree()` (R161). -/
def totalFree (s : State) : Nat := ((gaps s).map fun g => g.2 - g.1).sum

/-- `FirstFit(size)` (R162). -/
def firstFit (size : Nat) (s : State) : Option Nat :=
  ((gaps s).find? fun g => size ≤ g.2 - g.1).map Prod.fst

/-- One descriptor's part of `Compact()` (R163): it is slid to `cur`, its bytes with it outside paged mode. -/
def slideTo (i cur : Nat) (s : State) : Res Unit :=
  let d := s.seg i
  let r := s.regionSize d
  if d.base.toNat = cur then .ok () s
  else if s.mode.pag = false ∧ 0 < r then
    (memRead d.base.toNat r s).bind fun bytes s =>
    (memWrite cur bytes s).bind fun _ s =>
    .ok () (s.setSeg i { d with base := toReg32 cur })
  else .ok () (s.setSeg i { d with base := toReg32 cur })

/-- The loop of `Compact()` over an order computed before any move (R163). -/
def compactFrom : List Nat → Nat → State → Res Unit
  | [], _, s => .ok () s
  | i :: rest, cur, s =>
    (slideTo i cur s).bind fun _ s' => compactFrom rest (cur + s.regionSize (s.seg i)) s'

/-- `Compact()` (R163). -/
def compact (s : State) : Res Unit := compactFrom (validOrder s) 0 s

/-- `ST[i].valid <- 0`, the eviction of a descriptor (R171). -/
def invalidate (i : Nat) (s : State) : State := s.setSeg i { s.seg i with valid := false }

/-- The eviction loop of `Allocate` (R165 step 3): it stops at the first victim after which enough is free. -/
def evictUntil (size : Nat) : List Nat → State → State
  | [], s => s
  | i :: rest, s =>
    let s := invalidate i s
    if size ≤ totalFree s then s else evictUntil size rest s

/-- `Allocate(size)` (R165): first-fit, else compaction, else eviction and compaction. -/
def allocate (size : Nat) (s : State) : Res Nat :=
  match firstFit size s with
  | some a => .ok a s
  | none =>
    let s := if size ≤ totalFree s then s else evictUntil size (victimOrder s) s
    (compact s).bind fun _ s =>
    match firstFit size s with
    | some a => .ok a s
    | none => .stop .noGapAfterCompaction

/-- The test of R166 before `Allocate`: `OutOfMemory` with nothing changed. -/
def allocateChecked (size : Nat) (s : State) : Res Nat :=
  if s.cfg.memSize < size then .raised .outOfMemory s else allocate size s

/-- `SegmentLoad(i)`, the segment fault of segment mode (R167). -/
def segmentLoad (i : Nat) (s : State) : Res Unit :=
  let d := s.seg i
  (allocateChecked d.limit.toNat s).bind fun a s =>
  (diskRead d.diskBase.toNat d.limit.toNat s).bind fun bytes s =>
  (memWrite a bytes s).bind fun _ s =>
  .ok () (s.setSeg i { s.seg i with base := toReg32 a, valid := true })

end Sys2Proof.Machine
end

