-- ==== Sys2Proof/Machine/PageTable.lean ====
section
/-! DEFINITION. The page table: lookup, frame choice, page fault, stamp (R190 to R199), and the registration of a segment in paged mode (R168). -/

namespace Sys2Proof.Machine

/-- The lowest frame from `f` on, among the next `n`, that holds no page (R194). -/
def freeFrame (s : State) : Nat → Nat → Option Nat
  | 0, _ => none
  | n + 1, f => if (s.frame f).resident then freeFrame s n (f + 1) else some f

/-- The frame that minimises the pair (timestamp, frame number) (R195). -/
def oldestFrame (s : State) : Nat :=
  (List.range' 1 (s.cfg.numFrames - 1)).foldl
    (fun best f => if (s.frame f).ts < (s.frame best).ts then f else best) 0

/-- The eviction of the page in frame `f` (R196), after the check that its owner's entry agrees (R193). -/
def evictPage (f : Nat) (s : State) : Res Unit :=
  let o := (s.frame f).owner
  let e := s.page o
  if e.resident = false ∨ e.frame ≠ f then raiseFatal s
  else .ok () ((s.setPage o { e with resident := false }).setFrame f
    { s.frame f with resident := false, owner := 0 })

/-- `ChooseFrame()` (R194 to R196). -/
def chooseFrame (s : State) : Res Nat :=
  match freeFrame s s.cfg.numFrames 0 with
  | some f => .ok f s
  | none =>
    let f := oldestFrame s
    (evictPage f s).bind fun _ s => .ok f s

/-- PAGE_LOOKUP: the frame of page `v` when it is resident, nothing when it is not, after the checks of R193 (R191, R192). -/
def pageLookup (v : Nat) (s : State) : Res (Option Nat) :=
  if s.cfg.numVPages ≤ v then .raised .invalidAddress s
  else
    let e := s.page v
    if e.populated = false then raiseFatal s
    else if e.resident = false then .ok none s
    else if s.cfg.numFrames ≤ e.frame ∨ (s.frame e.frame).resident = false ∨
        (s.frame e.frame).owner ≠ v then raiseFatal s
    else .ok (some e.frame) s

/-- PAGE_FAULT: a frame is chosen and freed, page `v` is loaded into it, and both tables are updated (R191, R198). -/
def pageFault (v : Nat) (s : State) : Res Nat :=
  (chooseFrame s).bind fun f s =>
  (diskRead (v * s.cfg.pageSize) s.cfg.pageSize s).bind fun bytes s =>
  (memWrite (f * s.cfg.pageSize) bytes s).bind fun _ s =>
  .ok f ((s.setPage v { s.page v with frame := f, resident := true }).setFrame f
    { s.frame f with owner := v, resident := true })

/-- `EnsurePage(v)` (R191): lookup, page fault where the page is not resident, stamp. A chunk of a READ visits PAGE_FAULT; a page of a registration does not (R121), so `visit` says which it is. -/
def ensurePage (visit : Bool) (v : Nat) (s : State) : Res Nat :=
  (pageLookup v s).bind fun found s =>
  (match found with
    | some f => Res.ok f s
    | none => pageFault v (if visit then s.enter .pageFault else s)).bind fun f s =>
  (stampFrame f s).bind fun _ s => .ok f s

/-- `PT[v].populated <- 1` for the `n` pages from `v` on (R168, R216). -/
def populatePages (v n : Nat) (s : State) : Res Unit :=
  if s.cfg.numVPages < v + n then .stop .pageOutOfTable
  else
    let marked := (List.range' v n).map fun p => { s.page p with populated := true }
    .ok () { s with pt := Sparse.setRange PageEntry.empty s.pt v marked }

/-- `EnsurePage` for each of the `n` pages from `v` on, ascending (R168). -/
def loadPages : Nat → Nat → State → Res Unit
  | 0, _, s => .ok () s
  | n + 1, v, s => (ensurePage false v s).bind fun _ s => loadPages n (v + 1) s

/-- `SegmentRegister(i)`, the segment fault of paged mode (R168). -/
def segmentRegister (i : Nat) (s : State) : Res Unit :=
  let d := s.seg i
  let h := halfCount s.cfg d
  (allocateChecked (h * s.cfg.pageSize) s).bind fun a s =>
  let s := s.setSeg i { s.seg i with base := toReg32 a }
  (populatePages (firstPage s.cfg d) (pageCount s.cfg d) s).bind fun _ s =>
  (loadPages h (firstPage s.cfg d) s).bind fun _ s =>
  .ok () (s.setSeg i { s.seg i with valid := true })

end Sys2Proof.Machine
end

