-- ==== Sys2Proof/Machine/Admin.lean ====
section
/-! DEFINITION. The write path, the administrative commands and the mode command (R210 to R233). -/

namespace Sys2Proof.Machine

/-! ## WRITE -/

/-- WRITE after the `FATAL` gate (R211). The memory update is made in ACCESS (R210). -/
def writeWork (pa len : Word32) (data : List Byte) (s : State) : Res Unit :=
  if s.cfg.memSize < pa.toNat + len.toNat then .raised .invalidAddress s
  else memWrite pa.toNat data (s.enter .access)

/-- WRITE (R211). -/
def execWrite (pa len : Word32) (data : List Byte) (s : State) :
    Host.Outcome State Fault Refusal :=
  runCommand 1 (fun s => s.latchLen len) (writeWork pa len data) s

/-! ## REGSEG -/

/-- Do two regions (base, size) share a byte? -/
def regionsMeet (b r b' r' : Nat) : Bool := 0 < r && 0 < r' && b < b' + r' && b' < b + r

/-- Does the region of size `r` at `b` meet the region of a valid descriptor other than `index` (R215 check 3)? -/
def meetsOther (index b r : Nat) (s : State) : Bool :=
  (validEntries s).any fun p =>
    p.1 != index && regionsMeet b r p.2.base.toNat (s.regionSize p.2)

/-- REGSEG's checks, in order (R215). -/
def regsegChecks (index : Nat) (d : Descriptor) (s : State) : Res Unit :=
  if s.cfg.numSegments ≤ index then .raised .segmentFault s
  else if s.cfg.diskSize < d.diskBase.toNat + d.limit.toNat then .raised .badRequest s
  else if d.valid ∧ s.cfg.memSize < d.base.toNat + s.regionSize d then .raised .badRequest s
  else if d.valid ∧ meetsOther index d.base.toNat (s.regionSize d) s then .raised .badRequest s
  else .ok () s

/-- The page entries a paged-mode registration with `VALID = 1` marks populated (R216). -/
def regsegPopulate (d : Descriptor) (s : State) : Res Unit :=
  if d.valid ∧ s.mode.pag ∧ d.limit ≠ 0 then
    populatePages (firstPage s.cfg d) (pageCount s.cfg d) s
  else .ok () s

/-- REGSEG after the `FATAL` gate (R214). -/
def regsegWork (index : Nat) (d : Descriptor) (s : State) : Res Unit :=
  (regsegChecks index d s).bind fun _ s => regsegPopulate d (s.setSeg index d)

/-- REGSEG (R214). -/
def execRegseg (index : BitVec 13) (base diskBase : Word32) (limit : BitVec 31) (valid : Bool)
    (s : State) : Host.Outcome State Fault Refusal :=
  runCommand 2 id (regsegWork index.toNat ⟨true, base, diskBase, limit, valid, 0⟩) s

/-! ## INVSEG -/

/-- INVSEG after the `FATAL` gate (R218). -/
def invsegWork (index : Nat) (s : State) : Res Unit :=
  if s.cfg.numSegments ≤ index ∨ (s.seg index).populated = false then .raised .segmentFault s
  else .ok () (invalidate index s)

/-- INVSEG (R218). -/
def execInvseg (index : BitVec 13) (s : State) : Host.Outcome State Fault Refusal :=
  runCommand 3 id (invsegWork index.toNat) s

/-! ## INVPAGE -/

/-- The page's frame is freed and the page marked not resident, both tables together (R221). -/
def dropPage (v : Nat) (s : State) : State :=
  let e := s.page v
  (s.setFrame e.frame { s.frame e.frame with resident := false, owner := 0 }).setPage v
    { e with resident := false }

/-- INVPAGE after the `FATAL` gate (R221). -/
def invpageWork (v : Nat) (s : State) : Res Unit :=
  if s.cfg.numVPages ≤ v then .raised .invalidAddress s
  else if (s.page v).resident then .ok () (dropPage v s)
  else .ok () s

/-- INVPAGE (R221). -/
def execInvpage (vpn : Word32) (s : State) : Host.Outcome State Fault Refusal :=
  runCommand 4 id (invpageWork vpn.toNat) s

/-! ## CLEAR -/

/-- CLEAR after the `FATAL` gate (R224): every entry of the three tables at its reset value, `CLOCK <- 0`. -/
def clearWork (s : State) : Res Unit :=
  .ok () { s with st := [], pt := [], rpt := [], clock := 0 }

/-- CLEAR (R224). -/
def execClear (s : State) : Host.Outcome State Fault Refusal :=
  runCommand 5 id clearWork s

/-! ## SETMODE -/

/-- `TablesClear()` (R230). An unlisted entry is unpopulated and not resident. -/
def tablesClear (s : State) : Bool :=
  s.st.all (fun p => !p.2.populated) && s.pt.all (fun p => !p.2.populated) &&
    s.rpt.all (fun p => !p.2.resident)

/-- SETMODE after the `FATAL` gate (R230, R232, R233). -/
def setmodeWork (seg pag : Bool) (s : State) : Res Unit :=
  if pag ∧ seg = false then .raised .badRequest s
  else if pag ≠ s.mode.pag ∧ tablesClear s = false then .raised .badRequest s
  else .ok () { s with mode := ⟨seg, pag⟩ }

/-- SETMODE (R230). -/
def execSetmode (seg pag : Bool) (s : State) : Host.Outcome State Fault Refusal :=
  runCommand 6 id (setmodeWork seg pag) s

end Sys2Proof.Machine
end

