-- ==== Sys2Proof/Machine/Translate.lean ====
section
/-! DEFINITION. The READ command: mode decode and the fault-dispatch sequencer (R120 to R135). -/

namespace Sys2Proof.Machine

/-- DECODE of READ: `SEL` and `OFF` are extracted (R122). -/
def State.latchSelector (s : State) (la : LogicalAddr) : State :=
  { s with seq := { s.seq with sel := selOf la, off := offOf la } }

/-- LINEAR_COMPUTE: `LIN` and `REMAIN` are written (R128). -/
def State.linear (s : State) (lin : Nat) (len : Word32) : State :=
  let s := s.enter .linearCompute
  { s with seq := { s.seq with lin := toReg32 lin, remain := len } }

/-- PHYSICAL_COMPUTE: `PHYS` is written (R95, R129, R130). -/
def State.physical (s : State) (phys : Nat) : State :=
  let s := s.enter .physicalCompute
  { s with seq := { s.seq with phys := toReg32 phys } }

/-- `RESULT` is written. -/
def State.setResult (s : State) (bytes : List Byte) : State :=
  { s with seq := { s.seq with result := bytes } }

/-- READ in real mode (R123). -/
def readReal (off len : Word32) (s : State) : Res Unit :=
  if s.cfg.diskSize < off.toNat + len.toNat then .raised .invalidAddress s
  else
    let s := ((s.linear off.toNat len).physical off.toNat).enter .access
    if len = 0 then .ok () (s.setResult [])
    else (diskRead off.toNat len.toNat s).bind fun bytes s => .ok () (s.setResult bytes)

/-- SEGMENT_LOOKUP's checks, in order (R124). -/
def segmentChecks (sel : Nat) (off len : Word32) (s : State) : Res Unit :=
  if s.cfg.numSegments ≤ sel then .raised .segmentFault s
  else if (s.seg sel).populated = false then .raised .segmentFault s
  else if (s.seg sel).limit.toNat ≤ off.toNat then .raised .invalidAddress s
  else if (s.seg sel).limit.toNat < off.toNat + len.toNat then .raised .crossSegmentRead s
  else .ok () s

/-- SEGMENT_FAULT: the hard-wired procedure of the mode (R126, R251). -/
def segmentFault (sel : Nat) (s : State) : Res Unit :=
  if s.mode.pag then segmentRegister sel s else segmentLoad sel s

/-- The segment phase after the checks: fault where the descriptor is not valid, then one stamp (R125, R126, R127). -/
def segmentPhase (sel : Nat) (s : State) : Res Unit :=
  if (s.seg sel).valid then stampSegment sel s
  else (segmentFault sel (s.enter .segmentFault)).bind fun _ s => stampSegment sel s

/-- The last steps of READ in segment mode: one access of `LEN` bytes at `base + OFF` (R128, R129). -/
def readSegment (sel : Nat) (off len : Word32) (s : State) : Res Unit :=
  let phys := (s.seg sel).base.toNat + off.toNat
  let s := ((s.linear phys len).physical phys).enter .access
  (memRead phys len.toNat s).bind fun bytes s => .ok () (s.setResult bytes)

/-- One chunk of a paged READ: the `c` bytes at linear address `lin` (R130). -/
def readChunk (lin c : Nat) (s : State) : Res Unit :=
  let v := vpnOf s.cfg lin
  let p := poffOf s.cfg lin
  let s := s.enter .pageLookup
  let s := { s with seq := { s.seq with vpn := v, poff := p } }
  (ensurePage true v s).bind fun f s =>
  let phys := f * s.cfg.pageSize + p
  let s := { s with seq := { s.seq with frame := f } }
  let s := (s.physical phys).enter .access
  (memRead phys c s).bind fun bytes s => .ok () (s.setResult (s.seq.result ++ bytes))

/-- `LIN` and `REMAIN` after a chunk (R130). -/
def State.advance (s : State) (lin remain : Nat) : State :=
  { s with seq := { s.seq with lin := toReg32 lin, remain := BitVec.ofNat 32 remain } }

/-- The chunk loop of a paged READ (R130). The first argument bounds the number of turns; each turn reads one byte or more, so `remain` turns are enough. -/
def readChunks : Nat → Nat → Nat → State → Res Unit
  | 0, _, _, s => .ok () s
  | turns + 1, lin, remain, s =>
    if remain = 0 then .ok () s
    else
      let c := chunkSize s.cfg lin remain
      (readChunk lin c s).bind fun _ s =>
      readChunks turns (lin + c) (remain - c) (s.advance (lin + c) (remain - c))

/-- The last steps of READ in paged mode (R128, R130). -/
def readPaged (sel : Nat) (off len : Word32) (s : State) : Res Unit :=
  let lin := (s.seg sel).diskBase.toNat + off.toNat
  readChunks len.toNat lin len.toNat ((s.linear lin len).setResult [])

/-- READ in segment and paged mode (R124 to R130). -/
def readTranslated (sel : Nat) (off len : Word32) (s : State) : Res Unit :=
  (segmentChecks sel off len (s.enter .segmentLookup)).bind fun _ s =>
  (segmentPhase sel s).bind fun _ s =>
  if s.mode.pag then readPaged sel off len s else readSegment sel off len s

/-- READ after the `FATAL` gate (R122, R134). -/
def readWork (la : LogicalAddr) (len : Word32) (s : State) : Res Unit :=
  let s := s.latchSelector la
  if s.mode.seg then readTranslated (selOf la).toNat (offOf la) len s
  else readReal (offOf la) len s

/-- READ (R120, R134). -/
def execRead (la : LogicalAddr) (len : Word32) (s : State) : Host.Outcome State Fault Refusal :=
  runCommand 0 (fun s => s.latchRead la len) (readWork la len) s

end Sys2Proof.Machine
end

