-- ==== Sys2Proof/Machine/Dispatch.lean ====
section
/-! DEFINITION. The dispatcher: one arm per command of R104. -/

namespace Sys2Proof.Machine

/-- The meaning of a command. -/
def exec (i : Instr) (s : State) : Host.Outcome State Fault Refusal :=
  match i with
  | .read la len => Sys2Proof.Machine.execRead la len s
  | .write pa len data => Sys2Proof.Machine.execWrite pa len data s
  | .regseg index base diskBase limit valid => Sys2Proof.Machine.execRegseg index base diskBase limit valid s
  | .invseg index => Sys2Proof.Machine.execInvseg index s
  | .invpage vpn => Sys2Proof.Machine.execInvpage vpn s
  | .clear => Sys2Proof.Machine.execClear s
  | .setmode seg pag => Sys2Proof.Machine.execSetmode seg pag s

end Sys2Proof.Machine
end

