-- ==== Sys2Proof/Machine/Port.lean ====
section
/-! DEFINITION. The request port: what the translator does with what the host presents next (R27, R96, R98, R105, R270). -/

namespace Sys2Proof.Machine

/-- The reset event between commands: the state of R271, the parameters and what the host presents next kept (log entry 8). -/
def resetEvent (s : State) (rest : List Input) : State := { State.init s.cfg with input := rest }

/-- A port sequence that starts with no command. -/
def answerReject (e : Reject) (s : State) : Host.Outcome State Fault Refusal :=
  match e with
  | .noCommand => .next s
  | .reservedOpcode op => execReserved op { s with input := s.input.drop 1 }
  | .payloadPending => .next s
  | .payloadCutShort => .refused .payloadCutShort
  | .strayByte => .refused .strayPayload

/-- The front command of the port is taken off it and run, its payload with it whatever its status (R98, R247). -/
def acceptCommand (s : State) : Host.Outcome State Fault Refusal :=
  match decode s.input with
  | .ok (i, rest) => exec i { s with input := rest }
  | .error e => answerReject e s

/-- One turn of the port: nothing happens while nothing is presented (R273); the reset event is taken between commands (R270); otherwise a command is accepted, in IDLE only (R27). -/
def portTurn (s : State) : Host.Outcome State Fault Refusal :=
  if s.busy then .refused .busy
  else match s.input with
    | [] => .next s
    | .reset :: rest => .next (resetEvent s rest)
    | .word _ :: _ => acceptCommand s
    | .byte _ :: _ => acceptCommand s

/-- The port with the items of a table word in front, the sequencer in IDLE. -/
def placeItems (items : List Input) (s : State) : State :=
  { s with input := items ++ s.input, seq := { s.seq with fsm := .idle } }

end Sys2Proof.Machine
end

