-- ==== Sys2Proof/Machine/Step.lean ====
section
/-! DEFINITION. One step of the translator: one command, one reset event, or waiting (R24, R72, R273; log entry 9). -/

namespace Sys2Proof.Machine

/-- One step. -/
def step (s : State) : Host.Outcome State Fault Refusal := portTurn s

/-- The state with a table word presented next on the request port: the word, and for WRITE a payload of zero bytes (log entry 5). -/
def State.withFetchWord (s : State) (nbits w : Nat) : State := placeItems (tableItems nbits w) s

end Sys2Proof.Machine
end

