-- ==== Sys2Proof/Safety.lean ====
section
/-! DEFINITION. What a sound state is (the spec's invariants, R29, R33, R42, R43, R46), what a safe step is, and the words the statements use. -/

namespace Sys2Proof.Machine

/-! ## The invariants of the spec -/

/-- The tables and the memory are in canonical form and list nothing outside the device (R20, R32, R35, R37, R39). -/
abbrev State.canonical (s : State) : Prop :=
  (Sparse.wf Descriptor.empty s.st ∧ ∀ p ∈ s.st, p.1 < s.cfg.numSegments) ∧
  (Sparse.wf PageEntry.empty s.pt ∧ ∀ p ∈ s.pt, p.1 < s.cfg.numVPages) ∧
  (Sparse.wf FrameEntry.empty s.rpt ∧ ∀ p ∈ s.rpt, p.1 < s.cfg.numFrames) ∧
  (Memory.wf s.mem ∧ ∀ p ∈ s.mem, p.1 < s.cfg.memSize)

/-- `MODE.PAG = 1 → MODE.SEG = 1` (R29). -/
abbrev Mode.legal (m : Mode) : Prop := m.pag = true → m.seg = true

/-- Two byte ranges (start, size), both non-empty, share no byte. -/
abbrev apart (b r b' r' : Nat) : Prop := 0 < r → 0 < r' → b + r ≤ b' ∨ b' + r' ≤ b

/-- I-SEG (R42): the region of every valid descriptor lies in ResidentMemory, and two valid regions share no byte. -/
abbrev State.iSeg (s : State) : Prop :=
  ∀ i < s.cfg.numSegments, (s.seg i).valid = true →
    (s.seg i).base.toNat + s.regionSize (s.seg i) ≤ s.cfg.memSize ∧
    ∀ j < s.cfg.numSegments, i ≠ j → (s.seg j).valid = true →
      apart (s.seg i).base.toNat (s.regionSize (s.seg i))
        (s.seg j).base.toNat (s.regionSize (s.seg j))

/-- I-PAGE (R43): the page table and the reverse page table agree on every resident page and frame. -/
abbrev State.iPage (s : State) : Prop :=
  (∀ v < s.cfg.numVPages, (s.page v).resident = true →
    (s.page v).frame < s.cfg.numFrames ∧ (s.frame (s.page v).frame).resident = true ∧
    (s.frame (s.page v).frame).owner = v) ∧
  (∀ f < s.cfg.numFrames, (s.frame f).resident = true →
    (s.frame f).owner < s.cfg.numVPages ∧ (s.page (s.frame f).owner).resident = true ∧
    (s.page (s.frame f).owner).frame = f)

/-- I-DISK (R46): every populated descriptor lies inside the backing store. -/
abbrev State.iDisk (s : State) : Prop :=
  ∀ i < s.cfg.numSegments, (s.seg i).populated = true →
    (s.seg i).diskBase.toNat + (s.seg i).limit.toNat ≤ s.cfg.diskSize

/-- I-POP (R46): in paged mode every page of a valid descriptor is populated. -/
abbrev State.iPop (s : State) : Prop :=
  s.mode.pag = true → ∀ i < s.cfg.numSegments, (s.seg i).valid = true → (s.seg i).limit ≠ 0 →
    ∀ v < s.cfg.numVPages, firstPage s.cfg (s.seg i) ≤ v → v ≤ lastPage s.cfg (s.seg i) →
      (s.page v).populated = true

/-- The legal values of the fields (R33, R36, R38): a valid descriptor is populated, no timestamp is ahead of `CLOCK`, frame and owner fields fit their widths. -/
abbrev State.legalFields (s : State) : Prop :=
  (∀ i < s.cfg.numSegments, ((s.seg i).valid = true → (s.seg i).populated = true) ∧
    (s.seg i).ts ≤ s.clock) ∧
  (∀ v < s.cfg.numVPages, (s.page v).frame < s.cfg.numFrames) ∧
  (∀ f < s.cfg.numFrames, (s.frame f).owner < s.cfg.numVPages ∧ (s.frame f).ts ≤ s.clock)

/-- FATAL is set only when CLOCK has no room for the stamps of one more command: a READ needs at most one for each frame, one for the descriptor and one for each page (R131, R246, 93 U9; log entry 10). -/
abbrev State.fatalOnlyNearEnd (s : State) : Prop :=
  s.fatal = true → 2 ^ 64 ≤ s.clock.toNat + s.cfg.numFrames + 1 + s.cfg.numVPages

/-- A sound state: every invariant of the spec on the architectural state. -/
structure State.Sound (s : State) : Prop where
  params : s.cfg.wf
  canonical : s.canonical
  mode : s.mode.legal
  seg : s.iSeg
  page : s.iPage
  disk : s.iDisk
  pop : s.iPop
  fields : s.legalFields
  fatal : s.fatalOnlyNearEnd

/-- The working registers whose widths depend on the parameters fit them (R21). -/
abbrev State.registersFit (s : State) : Prop :=
  s.seq.vpn < s.cfg.numVPages ∧ s.seq.poff < s.cfg.pageSize ∧ s.seq.frame < s.cfg.numFrames

/-- The invariant of the machine between commands: a sound state, the sequencer in IDLE, the working registers inside their widths. -/
structure State.Inv (s : State) : Prop where
  sound : s.Sound
  idle : s.seq.fsm = .idle
  registers : s.registersFit

/-! ## Resident copies that still equal the backing store (R76, R140) -/

/-- Every byte of every resident page equals the byte of the backing store it was loaded from. -/
abbrev State.pagesCoherent (s : State) : Prop :=
  ∀ v < s.cfg.numVPages, (s.page v).resident = true → ∀ k < s.cfg.pageSize,
    s.byte ((s.page v).frame * s.cfg.pageSize + k) =
      Memory.read s.cfg.disk (v * s.cfg.pageSize + k)

/-- Every byte of every valid descriptor's region equals the byte of the backing store it was loaded from. -/
abbrev State.segmentsCoherent (s : State) : Prop :=
  ∀ i < s.cfg.numSegments, (s.seg i).valid = true → ∀ k < (s.seg i).limit.toNat,
    s.byte ((s.seg i).base.toNat + k) = Memory.read s.cfg.disk ((s.seg i).diskBase.toNat + k)

/-- No resident byte differs from its source: pages in paged mode, segments otherwise. -/
abbrev State.coherent (s : State) : Prop :=
  (s.mode.pag = true → s.pagesCoherent) ∧
  (s.mode.pag = false → (∀ v < s.cfg.numVPages, (s.page v).resident = false) ∧ s.segmentsCoherent)

/-- A command that may make a resident byte differ from its source: WRITE, and outside paged mode a REGSEG that asserts residency (R76, R283). -/
def mayDesync (i : Instr) (s : State) : Bool :=
  match i with
  | .write _ _ _ => true
  | .regseg _ _ _ _ valid => valid && !s.mode.pag
  | .read _ _ => false
  | .invseg _ => false
  | .invpage _ => false
  | .clear => false
  | .setmode _ _ => false

/-! ## Words the statements use -/

/-- A command that ran to its end: the next state is `t`, the status is `k`, and the sequencer is back in IDLE. -/
def ends (o : Host.Outcome State Fault Refusal) (t : State) (k : Status) : Prop :=
  o = .next t ∧ t.seq.status = k ∧ t.seq.fsm = .idle

/-- A command that ends with status `k` and has changed nothing but the sequencer's own registers (R26, R105, R138; log entry 15). -/
def endsUnchanged (o : Host.Outcome State Fault Refusal) (s : State) (k : Status) : Prop :=
  ∃ q, ends o { s with seq := q } k

/-- The checks of SEGMENT_LOOKUP pass for a READ (R124). -/
abbrev readable (la : LogicalAddr) (len : Word32) (s : State) : Prop :=
  (selOf la).toNat < s.cfg.numSegments ∧ (s.seg (selOf la).toNat).populated = true ∧
  (offOf la).toNat < (s.seg (selOf la).toNat).limit.toNat ∧
  (offOf la).toNat + len.toNat ≤ (s.seg (selOf la).toNat).limit.toNat

/-- `bytes` are the `n` bytes that `get` gives at `a`, `a + 1`, … (R60). -/
def bytesAt (get : Nat → Byte) (a n : Nat) (bytes : List Byte) : Prop :=
  bytes.length = n ∧ ∀ k < n, bytes[k]? = some (get (a + k))

/-- The number of chunks of a paged READ of `len` bytes at linear address `lin` (R131). -/
def chunkCount (c : Config) (lin len : Nat) : Nat :=
  if len = 0 then 0 else (lin + len - 1) / c.pageSize - lin / c.pageSize + 1

/-- The sequencer states of one chunk, with or without a page fault (R121, R135). -/
def chunkPath (fault : Bool) : List Fsm :=
  .pageLookup :: (if fault then [.pageFault] else []) ++ [.physicalCompute, .access]

/-- An outcome with the latches `REQ_LA` and `SEL` blanked out. -/
def forgetSelector : Host.Outcome State Fault Refusal → Host.Outcome State Fault Refusal
  | .next t => .next { t with seq := { t.seq with reqLA := 0, sel := 0 } }
  | .fault f => .fault f
  | .refused r => .refused r

/-- How many low bits of a command word hold operands, by opcode (R97 to R103). -/
def operandBits (op : BitVec 4) : Nat :=
  if op = 0 then 80 else if op = 1 then 64 else if op = 2 then 109 else if op = 3 then 13
  else if op = 4 then 32 else if op = 5 then 0 else if op = 6 then 2 else 0

/-- The place `a` is free for a region of `size` bytes: inside ResidentMemory and apart from every valid region (R161). -/
def freeAt (s : State) (size a : Nat) : Prop :=
  a + size ≤ s.cfg.memSize ∧ ∀ i < s.cfg.numSegments, (s.seg i).valid = true →
    apart a size (s.seg i).base.toNat (s.regionSize (s.seg i))

/-- `TablesClear()` as R230 words it: nothing populated, nothing resident. -/
abbrev nothingRegistered (s : State) : Prop :=
  (∀ i < s.cfg.numSegments, (s.seg i).populated = false) ∧
  (∀ v < s.cfg.numVPages, (s.page v).populated = false) ∧
  (∀ f < s.cfg.numFrames, (s.frame f).resident = false)

/-- The linear address of byte `k` of a paged READ (R128, R130). -/
def readLin (s : State) (la : LogicalAddr) (k : Nat) : Nat :=
  (s.seg (selOf la).toNat).diskBase.toNat + (offOf la).toNat + k

/-- The virtual page of byte `k` of a paged READ (R94, R130). -/
def readPage (s : State) (la : LogicalAddr) (k : Nat) : Nat := readLin s la k / s.cfg.pageSize

/-- The stamps a successful paged READ makes (R131): one for each page of a registration, one for the descriptor, one for each chunk. -/
def pagedStamps (s : State) (la : LogicalAddr) (len : Word32) : Nat :=
  let d := s.seg (selOf la).toNat
  (if d.valid then 0 else halfCount s.cfg d) + 1 +
    chunkCount s.cfg (readLin s la 0) len.toNat

/-- A step of a safe run: it does not stop, and it leaves FATAL clear. A state with FATAL set is never a good final state (R246, 93 U10). -/
def safeStep (s : State) : Prop := ∃ t, step s = .next t ∧ t.fatal = false

/-- The stamps a command makes when CLOCK has room for them (R31, R127, R131): none but for a READ in segment or paged mode that passes its checks and the capacity test. -/
def commandStamps (i : Instr) (s : State) : Nat :=
  match i with
  | .read la len =>
    if s.mode.seg = true ∧ readable la len s ∧ ((s.seg (selOf la).toNat).valid = true ∨
        s.regionSize (s.seg (selOf la).toNat) ≤ s.cfg.memSize)
    then (if s.mode.pag then pagedStamps s la len else 1) else 0
  | .write _ _ _ => 0
  | .regseg _ _ _ _ _ => 0
  | .invseg _ => 0
  | .invpage _ => 0
  | .clear => 0
  | .setmode _ _ => 0

/-! ## Events and the places they name -/

/-- The address `a` lies in the range a notice names (R68). A page of 2^32 bytes fills the memory, and its length does not fit the port (R111, log entry 12). -/
def noticeCovers (c : Config) (addr n : Word32) (a : Nat) : Prop :=
  addr.toNat ≤ a ∧ (a < addr.toNat + n.toNat ∨ c.pageSize = 2 ^ 32 ∧ n = toReg32 (2 ^ 32))

/-- An event's range is of one byte or more inside a device of `size` bytes; or it is a page of 2^32 bytes, whose length does not fit the port (R111, log entry 12). -/
def rangeInside (c : Config) (size : Nat) (start n : Word32) : Prop :=
  (1 ≤ n.toNat ∧ start.toNat + n.toNat ≤ size) ∨
    (c.pageSize = 2 ^ 32 ∧ size = 2 ^ 32 ∧ start = 0 ∧ n = toReg32 (2 ^ 32))

/-! ## The order of compaction -/

/-- The selectors of `order` with the bases they get when their regions are packed one after another from `cur` on (R163). -/
def packing (s : State) : List Nat → Nat → List (Nat × Nat)
  | [], _ => []
  | i :: rest, cur => (i, cur) :: packing s rest (cur + s.regionSize (s.seg i))

/-- The notices of a compaction: one for each region that holds bytes and is not in place, in the order of the packing (R163). -/
def packingNotices (s : State) (packed : List (Nat × Nat)) : List Event :=
  (packed.filter fun p => (s.seg p.1).base.toNat ≠ p.2 ∧ 0 < s.regionSize (s.seg p.1)).map
    fun p => .notice (toReg32 p.2) (toReg32 (s.regionSize (s.seg p.1)))

/-! ## The page visits of a paged READ -/

/-- One call of `EnsurePage` within a READ: the page, the frame it answered, and whether it took a page fault (R191). -/
structure PageVisit where
  page : Nat
  frame : Nat
  fault : Bool
deriving DecidableEq, Repr

/-- How many pages a READ registers: the first half of its segment's where the descriptor is not valid (R168). -/
def registeredPages (s : State) (la : LogicalAddr) : Nat :=
  if (s.seg (selOf la).toNat).valid then 0 else halfCount s.cfg (s.seg (selOf la).toNat)

/-- The pages a paged READ visits, in order: the pages it registers, ascending from the segment's first, then the pages of its chunks (R130, R137, R168). -/
def visitedPages (s : State) (la : LogicalAddr) (len : Word32) : List Nat :=
  List.range' (firstPage s.cfg (s.seg (selOf la).toNat)) (registeredPages s la) ++
    List.range' (readPage s la 0) (chunkCount s.cfg (readLin s la 0) len.toNat)

/-- The last of the visits that used frame `f`, by its place in the list. -/
def lastVisit (past : List PageVisit) (f : Nat) : Option Nat :=
  (List.range past.length).reverse.find? fun k => (past[k]?).map PageVisit.frame = some f

/-- After the visits `past` from state `s` on, frame `f` holds page `v`: the last visit that used it was for `v`, or none used it and it held `v` before (R198). -/
def heldBy (s : State) (past : List PageVisit) (f v : Nat) : Prop :=
  match lastVisit past f with
  | some k => (past[k]?).map PageVisit.page = some v
  | none => (s.frame f).resident = true ∧ (s.frame f).owner = v

/-- After the visits `past` from state `s` on, frame `f` holds some page. -/
def inUse (s : State) (past : List PageVisit) (f : Nat) : Prop :=
  (lastVisit past f).isSome = true ∨ (s.frame f).resident = true

/-- The stamp that visit `k` of a READ makes: the descriptor's stamp stands after those of the registration (R126, R131). -/
def visitStamp (s : State) (la : LogicalAddr) (k : Nat) : Nat :=
  s.clock.toNat + k + 1 + if registeredPages s la ≤ k then 1 else 0

/-- The timestamp of frame `f` after the visits `past` (R199). -/
def stampAfter (s : State) (la : LogicalAddr) (past : List PageVisit) (f : Nat) : Nat :=
  match lastVisit past f with
  | some k => visitStamp s la k
  | none => (s.frame f).ts.toNat

/-- Visit `r` goes as the rules say after the visits `past`: a hit where a frame holds the page, and then that frame; else a page fault into the lowest free frame, or, with all in use, into the frame with the oldest timestamp, lowest first (R191, R194, R195). -/
def visitFollows (s : State) (la : LogicalAddr) (past : List PageVisit) (r : PageVisit) : Prop :=
  r.frame < s.cfg.numFrames ∧
  (r.fault = false → heldBy s past r.frame r.page) ∧
  (r.fault = true → (∀ f < s.cfg.numFrames, ¬ heldBy s past f r.page) ∧
    ((¬ inUse s past r.frame ∧ ∀ g < r.frame, inUse s past g) ∨
      ∀ g < s.cfg.numFrames, inUse s past g ∧
        (stampAfter s la past r.frame < stampAfter s la past g ∨
          stampAfter s la past r.frame = stampAfter s la past g ∧ r.frame ≤ g)))

/-- The events of a visit: none on a hit; on a fault one backing-store read of the page and one notice of the frame (R191, R198). -/
def visitEvents (c : Config) (r : PageVisit) : List Event :=
  if r.fault then
    [.bsRead (toReg32 (r.page * c.pageSize)) (toReg32 c.pageSize),
      .notice (toReg32 (r.frame * c.pageSize)) (toReg32 c.pageSize)]
  else []

/-- State `t` and its response are what the visits make of state `s` by a paged READ that succeeds. -/
structure PagedEffect (s t : State) (la : LogicalAddr) (len : Word32) (visits : List PageVisit) :
    Prop where
  /-- Each page goes through `EnsurePage` in order, and each visit goes as the rules say (R130, R168, R191 to R195). -/
  pages : visits.map PageVisit.page = visitedPages s la len
  follows : ∀ k r, visits[k]? = some r → visitFollows s la (visits.take k) r
  /-- The events are those of the visits, in order, and no others (R137). -/
  trace : t.trace = s.trace ++ visits.flatMap (visitEvents s.cfg)
  /-- The sequencer visits PAGE_FAULT for exactly the chunks that fault, and not for a registration's pages (R121). -/
  path : t.seq.path = [.decode, .segmentLookup] ++
    (if (s.seg (selOf la).toNat).valid then [] else [.segmentFault]) ++ [.linearCompute] ++
    (visits.drop (registeredPages s la)).flatMap (fun r => chunkPath r.fault) ++ [.done]
  /-- Afterwards each frame holds the page its visits left there, under the stamp of the last (R198, R199). -/
  frames : ∀ f < s.cfg.numFrames, (t.frame f).ts.toNat = stampAfter s la visits f ∧
    ∀ v, heldBy s visits f v ↔ (t.frame f).resident = true ∧ (t.frame f).owner = v
  /-- A page is resident afterwards exactly where a frame holds it, and its entry names that frame (R43). -/
  resident : ∀ v < s.cfg.numVPages,
    ((t.page v).resident = true ↔ ∃ f < s.cfg.numFrames, heldBy s visits f v) ∧
    ((t.page v).resident = true → heldBy s visits (t.page v).frame v)
  /-- A registration populates exactly the segment's pages; without one no populated flag changes (R168). -/
  populated : ∀ v, (t.page v).populated = true ↔ (s.page v).populated = true ∨
    ((s.seg (selOf la).toNat).valid = false ∧ firstPage s.cfg (s.seg (selOf la).toNat) ≤ v ∧
      v ≤ lastPage s.cfg (s.seg (selOf la).toNat))
  /-- A frame into which no visit loaded a page keeps its bytes; one into which a visit did holds the backing store's bytes of the page it holds (R197, R198). -/
  kept : ∀ a, (∀ r ∈ visits, r.frame = a / s.cfg.pageSize → r.fault = false) → t.byte a = s.byte a
  loaded : ∀ r ∈ visits, r.fault = true → ∀ v, heldBy s visits r.frame v →
    ∀ k < s.cfg.pageSize, t.byte (r.frame * s.cfg.pageSize + k) =
      Memory.read s.cfg.disk (v * s.cfg.pageSize + k)
  /-- A byte of a page that this READ loaded is the backing store's; a byte of another page is what its frame held before (R130). -/
  length : t.response.data.length = len.toNat
  fresh : ∀ k < len.toNat, (∃ r ∈ visits, r.page = readPage s la k ∧ r.fault = true) →
    t.response.data[k]? = some (Memory.read s.cfg.disk (readLin s la k))
  old : ∀ k < len.toNat, (∀ r ∈ visits, r.page = readPage s la k → r.fault = false) →
    t.response.data[k]? = some (s.byte
      ((s.page (readPage s la k)).frame * s.cfg.pageSize + readLin s la k % s.cfg.pageSize))

end Sys2Proof.Machine
end

