-- ==== Sys2Proof/Certificates/Slice0/Obligations.lean ====
section
/-! DEFINITION. The statements for the provers. -/

open Sys2Proof Sys2Proof.Machine

/-! ## Reset and the invariant of the machine -/

/-- R271: the state after reset, for every choice of the parameters. -/
def Obligations.ResetStateIsTheSpecs : Prop :=
  ∀ c : Config,
    (State.init c).mode.seg = false ∧ (State.init c).mode.pag = false ∧
    (State.init c).clock = 0 ∧ (State.init c).fatal = false ∧
    (State.init c).seq.fsm.code = 0 ∧ (State.init c).seq.status.code = 0 ∧
    (∀ i, (State.init c).seg i = ⟨false, 0, 0, 0, false, 0⟩) ∧
    (∀ v, (State.init c).page v = ⟨false, false, 0⟩) ∧
    (∀ f, (State.init c).frame f = ⟨false, 0, 0⟩)

/-- The invariant holds after reset for all legal parameters, and in `State.reset`. The latches' reset values and the reference parameters are the model's choice (log entries 1, 2, 3, 4). -/
def Obligations.InvariantHoldsAtReset : Prop :=
  (∀ c : Config, c.wf → (State.init c).Inv ∧ (State.init c).coherent ∧
    ∀ a, (State.init c).byte a = Memory.read c.memInit a) ∧
  State.reset = State.init Config.reference ∧ State.reset.Inv

/-- I-SEG, I-PAGE, I-DISK, I-POP, the legal mode, the canonical tables and memory, the legal field values, and FATAL only when CLOCK has no room for one more command (the model's reading, log entry 10): every step keeps them all (R29, R42, R43, R46, R176, R203). -/
def Obligations.StepKeepsInvariant : Prop :=
  ∀ s t : State, s.Inv → step s = .next t → t.Inv

/-- No step changes the parameters; the trace only grows, but for the reset event (R5, R11, R47). -/
def Obligations.StepKeepsParametersAndExtendsTrace : Prop :=
  ∀ s t : State, step s = .next t → t.cfg = s.cfg ∧
    (s.input.head? = some .reset ∨ ∃ events, t.trace = s.trace ++ events)

/-- R29: reset does not produce PAG = 1 with SEG = 0, SETMODE refuses it, and no step brings it about from a state that does not hold it. -/
def Obligations.PagingImpliesSegmentation : Prop :=
  (∀ c : Config, (State.init c).mode.legal) ∧
  (∀ s : State, s.fatal = false →
    endsUnchanged (exec (.setmode false true) s) s .badRequest) ∧
  ∀ s t : State, s.mode.legal → step s = .next t → t.mode.legal

/-! ## Encoding -/

/-- Every well-formed command, with every operand at every value, is what the decoder reads from its encoding, and what follows it is left. -/
def Obligations.DecodeOfEncodeIsTheCommand : Prop :=
  ∀ (i : Instr) (rest : List Input), i.wellFormed = true → decode (encode i ++ rest) = .ok (i, rest)

/-- What the decoder reads is a well-formed command, and it takes off the port the command's word and exactly its payload (R98, R105, R108). -/
def Obligations.DecodedCommandIsWellFormedAndTakesItsPayload : Prop :=
  ∀ (port : List Input) (i : Instr) (rest : List Input), decode port = .ok (i, rest) →
    i.wellFormed = true ∧ ∃ w, port = .word w :: (i.payload.map .byte ++ rest) ∧
      opOf w = i.opcode

/-- R106: two words with one opcode and the same operand bits decode alike, whatever their reserved bits. -/
def Obligations.ReservedCommandBitsAreIgnored : Prop :=
  ∀ (w w' : CmdWord) (rest : List Input), opOf w = opOf w' →
    w.toNat % 2 ^ operandBits (opOf w) = w'.toNat % 2 ^ operandBits (opOf w) →
    decode (.word w :: rest) = decode (.word w' :: rest)

/-- The command words as numbers (R91, R97 to R104). -/
def Obligations.EncodedWordsAreTheFormats : Prop :=
  (∀ la len, (encodeWord (.read la len)).toNat = la.toNat * 2 ^ 32 + len.toNat) ∧
  (∀ pa len data, (encodeWord (.write pa len data)).toNat =
    1 * 2 ^ 124 + pa.toNat * 2 ^ 32 + len.toNat) ∧
  (∀ index base diskBase limit valid,
    (encodeWord (.regseg index base diskBase limit valid)).toNat =
      2 * 2 ^ 124 + index.toNat * 2 ^ 96 + base.toNat * 2 ^ 64 + diskBase.toNat * 2 ^ 32 +
        limit.toNat * 2 + valid.toNat) ∧
  (∀ index, (encodeWord (.invseg index)).toNat = 3 * 2 ^ 124 + index.toNat) ∧
  (∀ vpn, (encodeWord (.invpage vpn)).toNat = 4 * 2 ^ 124 + vpn.toNat) ∧
  (encodeWord .clear).toNat = 5 * 2 ^ 124 ∧
  (∀ seg pag, (encodeWord (.setmode seg pag)).toNat = 6 * 2 ^ 124 + pag.toNat * 2 + seg.toNat) ∧
  ∀ la : LogicalAddr, la.toNat = (selOf la).toNat * 2 ^ 35 +
    (la.extractLsb' 32 3).toNat * 2 ^ 32 + (offOf la).toNat

/-- One word of each format, as spec/95_test_vectors.md writes it out, decodes to its command. -/
def Obligations.SampleWordsDecode : Prop :=
  decodeTableWord 128 0x00000000000000080000000400000004 = some (.read 0x000800000004 4) ∧
  decodeTableWord 128 0x10000000000000000000000600000002 = some (.write 6 2 [0, 0]) ∧
  decodeTableWord 128 0x2000000100a000000140000004000001 =
    some (.regseg 1 0xA00000 0x1400000 0x2000000 true) ∧
  decodeTableWord 128 0x30000000000000000000000000000002 = some (.invseg 2) ∧
  decodeTableWord 128 0x40000000000000000000000000000010 = some (.invpage 16) ∧
  decodeTableWord 128 0x50000000000000000000000000000000 = some .clear ∧
  decodeTableWord 128 0x60000000000000000000000000000003 = some (.setmode true true)

/-- R93: a READ's result does not depend on the reserved address bits, in any mode, nor in real mode on the selector. In real mode the outcomes agree in everything but the latches that hold the selector itself. -/
def Obligations.ReservedAddressBitsAreIgnored : Prop :=
  (∀ (s : State) (la la' : LogicalAddr) (len : Word32), selOf la = selOf la' →
    offOf la = offOf la' → exec (.read la len) s = exec (.read la' len) s) ∧
  ∀ (s : State) (la la' : LogicalAddr) (len : Word32), s.mode.seg = false →
    offOf la = offOf la' →
    forgetSelector (exec (.read la len) s) = forgetSelector (exec (.read la' len) s)

/-! ## The port and the step -/

/-- In IDLE, a step takes the decoded command and its payload off the port and is that command's meaning. -/
def Obligations.StepRunsTheDecodedCommand : Prop :=
  ∀ (s : State) (i : Instr) (rest : List Input), s.seq.fsm = .idle →
    decode s.input = .ok (i, rest) →
    i.wellFormed = true ∧ step s = exec i { s with input := rest }

/-- R105: a command with a reserved opcode ends with BadRequest, changes no state, causes no event and takes only its own word off the port. -/
def Obligations.ReservedOpcodeAnswersBadRequest : Prop :=
  Status.badRequest.code = 6 ∧
  ∀ (s : State) (w : CmdWord) (rest : List Input), s.seq.fsm = .idle → s.fatal = false →
    s.input = .word w :: rest → 7 ≤ (opOf w).toNat →
    endsUnchanged (step s) { s with input := rest } .badRequest

/-- What else a step does: it waits while nothing is presented (R273); the reset event gives the reset state of the same parameters (R270, R271). The waiting for a payload, the refusals and the reset event's place on the port are the model's choice (log entries 5, 6, 7, 8). -/
def Obligations.PortWaitsResetsAndRefuses : Prop :=
  (∀ s : State, s.seq.fsm = .idle → s.input = [] → step s = .next s) ∧
  (∀ (s : State) (rest : List Input), s.seq.fsm = .idle → s.input = .reset :: rest →
    step s = .next { State.init s.cfg with input := rest }) ∧
  (∀ s : State, s.seq.fsm = .idle → decode s.input = .error .payloadPending → step s = .next s) ∧
  (∀ s : State, s.seq.fsm = .idle → decode s.input = .error .payloadCutShort →
    step s = .refused .payloadCutShort) ∧
  (∀ s : State, s.seq.fsm ≠ .idle → step s = .refused .busy) ∧
  (∀ (s : State) (b : Byte) (rest : List Input), s.seq.fsm = .idle → s.input = .byte b :: rest →
    step s = .refused .strayPayload)

/-! ## FATAL, errors, the response -/

/-- R26: FATAL is set exactly when a command raises InternalConsistency; only reset clears it; while it is set every command, a reserved opcode too, ends with InternalConsistency, changes no state and causes no event; reset leaves it clear. -/
def Obligations.FatalLatchesAndFreezes : Prop :=
  (∀ (i : Instr) (s t : State), s.fatal = false → exec i s = .next t →
    (t.fatal = true ↔ t.seq.status = .internalConsistency)) ∧
  (∀ (i : Instr) (s : State), s.fatal = true →
    endsUnchanged (exec i s) s .internalConsistency) ∧
  (∀ (s : State) (w : CmdWord) (rest : List Input), s.fatal = true → s.seq.fsm = .idle →
    s.input = .word w :: rest → 7 ≤ (opOf w).toNat →
    endsUnchanged (step s) { s with input := rest } .internalConsistency) ∧
  (∀ s t : State, s.fatal = true → step s = .next t → s.input.head? ≠ some .reset →
    t.fatal = true) ∧
  ∀ c : Config, (State.init c).fatal = false

/-- For every command: one that ends with an error other than InternalConsistency has changed nothing and caused no event (R247); one that ends with InternalConsistency has changed nothing but FATAL (R26, R31, 93 U9). That the refused command keeps none of its effect is the model's reading, log entry 10 (DEDUCED); under the invariant no check of R193 fails, so the state changes that R138 and R247 let such a check leave behind do not arise. -/
def Obligations.ErrorsChangeNothing : Prop :=
  ∀ (i : Instr) (s t : State), s.Inv → exec i s = .next t →
    (t.seq.status ≠ .ok → t.seq.status ≠ .internalConsistency → t = { s with seq := t.seq }) ∧
    (t.seq.status = .internalConsistency → t = { s with seq := t.seq, fatal := true })

/-- In a state that satisfies the invariant, with FATAL clear, a command ends with InternalConsistency exactly when its stamps would take CLOCK past 2^64 - 1; so no check of R193 fails there (R31, R46, R131, R203, R246, 93 U9; log entry 10). -/
def Obligations.ConsistencyErrorMeansClockRanOut : Prop :=
  ∀ (i : Instr) (s t : State), s.Inv → s.fatal = false → exec i s = .next t →
    (t.seq.status = .internalConsistency ↔ 2 ^ 64 ≤ s.clock.toNat + commandStamps i s)

/-- Every command ends: no command stops or is refused in a state that satisfies the invariant, so no access leaves its device (R139, R256, R291). -/
def Obligations.EveryCommandEnds : Prop :=
  ∀ (i : Instr) (s : State), s.Inv → i.wellFormed = true →
    ∃ t, exec i s = .next t ∧ t.seq.fsm = .idle ∧ t.input = s.input

/-- The response has data for a READ with OK alone, and then LEN bytes (R107). -/
def Obligations.OnlySuccessfulReadsReturnData : Prop :=
  (∀ (i : Instr) (s t : State), exec i s = .next t → t.response.data ≠ [] →
    t.seq.status = .ok ∧ ∃ la len, i = .read la len) ∧
  ∀ (la : LogicalAddr) (len : Word32) (s t : State), exec (.read la len) s = .next t →
    t.seq.status = .ok → t.response.data.length = len.toNat

/-! ## READ -/

/-- R123: a real-mode READ. -/
def Obligations.RealModeReadsTheBackingStore : Prop :=
  ∀ (s : State) (la : LogicalAddr) (len : Word32), s.fatal = false → s.mode.seg = false →
    ((offOf la).toNat + len.toNat ≤ s.cfg.diskSize →
      ∃ t, ends (exec (.read la len) s) t .ok ∧
        t = { s with
          seq := t.seq
          trace := s.trace ++ if len = 0 then [] else [.bsRead (offOf la) len] } ∧
        bytesAt (Memory.read s.cfg.disk) (offOf la).toNat len.toNat t.response.data ∧
        t.seq.lin = offOf la ∧ t.seq.phys = offOf la) ∧
    (s.cfg.diskSize < (offOf la).toNat + len.toNat →
      endsUnchanged (exec (.read la len) s) s .invalidAddress)

/-- R124: the checks of SEGMENT_LOOKUP, in order, before anything is changed. -/
def Obligations.SegmentLookupChecksComeFirst : Prop :=
  ∀ (s : State) (la : LogicalAddr) (len : Word32), s.fatal = false → s.mode.seg = true →
    (s.cfg.numSegments ≤ (selOf la).toNat ∨ (s.seg (selOf la).toNat).populated = false →
      endsUnchanged (exec (.read la len) s) s .segmentFault) ∧
    ((selOf la).toNat < s.cfg.numSegments → (s.seg (selOf la).toNat).populated = true →
      ((s.seg (selOf la).toNat).limit.toNat ≤ (offOf la).toNat →
        endsUnchanged (exec (.read la len) s) s .invalidAddress) ∧
      ((offOf la).toNat < (s.seg (selOf la).toNat).limit.toNat →
        (s.seg (selOf la).toNat).limit.toNat < (offOf la).toNat + len.toNat →
        endsUnchanged (exec (.read la len) s) s .crossSegmentRead))

/-- OutOfMemory is answered exactly when a READ that passes the checks faults on a descriptor whose region is larger than ResidentMemory, and it changes nothing (R166, R169, R245). -/
def Obligations.OutOfMemoryExactlyForOversizedRegions : Prop :=
  ∀ (s : State) (la : LogicalAddr) (len : Word32), s.fatal = false →
    (s.mode.seg = true → readable la len s → (s.seg (selOf la).toNat).valid = false →
      s.cfg.memSize < s.regionSize (s.seg (selOf la).toNat) →
      endsUnchanged (exec (.read la len) s) s .outOfMemory) ∧
    ∀ t, exec (.read la len) s = .next t → t.seq.status = .outOfMemory →
      s.mode.seg = true ∧ readable la len s ∧ (s.seg (selOf la).toNat).valid = false ∧
        s.cfg.memSize < s.regionSize (s.seg (selOf la).toNat)

/-- A segment-mode READ of a resident segment: the bytes at base + OFF, one stamp, and nothing else (R125, R128, R129). -/
def Obligations.SegmentHitReadsResidentBytes : Prop :=
  ∀ (s : State) (la : LogicalAddr) (len : Word32), s.fatal = false → s.mode.seg = true →
    s.mode.pag = false → readable la len s → (s.seg (selOf la).toNat).valid = true →
    (s.seg (selOf la).toNat).base.toNat + (s.seg (selOf la).toNat).limit.toNat ≤ s.cfg.memSize →
    s.clock ≠ BitVec.allOnes 64 →
    ∃ t, ends (exec (.read la len) s) t .ok ∧
      t = { s with seq := t.seq, clock := s.clock + 1, st := t.st } ∧
      t.seg (selOf la).toNat = { s.seg (selOf la).toNat with ts := s.clock + 1 } ∧
      (∀ i, i ≠ (selOf la).toNat → t.seg i = s.seg i) ∧
      bytesAt s.byte ((s.seg (selOf la).toNat).base.toNat + (offOf la).toNat) len.toNat
        t.response.data

/-- A segment-mode READ that faults: the segment is placed where Allocate answers, the other descriptors and the notices before the load are Allocate's, the whole segment is loaded by exactly one backing-store read and one notice, the descriptor becomes valid and is stamped once, every other segment that stays valid keeps its bytes, and the answer is the backing store's bytes (R126, R127, R140, R167, R176). -/
def Obligations.SegmentFaultLoadsTheSegment : Prop :=
  ∀ (s : State) (la : LogicalAddr) (len : Word32), s.Inv → s.fatal = false → s.mode.seg = true →
    s.mode.pag = false → readable la len s → (s.seg (selOf la).toNat).valid = false →
    (s.seg (selOf la).toNat).limit.toNat ≤ s.cfg.memSize → s.clock ≠ BitVec.allOnes 64 →
    ∃ t w base moves, ends (exec (.read la len) s) t .ok ∧
      allocate (s.seg (selOf la).toNat).limit.toNat s = .ok base.toNat w ∧
      w.trace = s.trace ++ moves ∧ (∀ i, i ≠ (selOf la).toNat → t.seg i = w.seg i) ∧
      t = { s with seq := t.seq, clock := s.clock + 1, st := t.st, mem := t.mem, trace := t.trace } ∧
      t.seg (selOf la).toNat =
        { s.seg (selOf la).toNat with base := base, valid := true, ts := s.clock + 1 } ∧
      (∀ i, i ≠ (selOf la).toNat → ∃ b v, t.seg i = { s.seg i with base := b, valid := v } ∧
        (v = true → (s.seg i).valid = true)) ∧
      (∀ i < s.cfg.numSegments, i ≠ (selOf la).toNat → (t.seg i).valid = true →
        ∀ k < (t.seg i).limit.toNat,
          t.byte ((t.seg i).base.toNat + k) = s.byte ((s.seg i).base.toNat + k)) ∧
      t.trace = s.trace ++ moves ++
        [.bsRead (s.seg (selOf la).toNat).diskBase ((s.seg (selOf la).toNat).limit.setWidth 32),
          .notice base ((s.seg (selOf la).toNat).limit.setWidth 32)] ∧
      (∀ e ∈ moves, ∃ a n, e = .notice a n) ∧
      (∀ k < (s.seg (selOf la).toNat).limit.toNat, t.byte (base.toNat + k) =
        Memory.read s.cfg.disk ((s.seg (selOf la).toNat).diskBase.toNat + k)) ∧
      bytesAt (Memory.read s.cfg.disk)
        ((s.seg (selOf la).toNat).diskBase.toNat + (offOf la).toNat) len.toNat t.response.data

/-- A paged READ whose pages are all resident: each byte comes from its page's frame at its page offset; CLOCK moves by one for the descriptor and one for each chunk; nothing but timestamps changes and no event is caused (R95, R127, R130, R131, R192). -/
def Obligations.PagedHitReadsTheFrames : Prop :=
  ∀ (s : State) (la : LogicalAddr) (len : Word32), s.Inv → s.fatal = false → s.mode.seg = true →
    s.mode.pag = true → readable la len s → (s.seg (selOf la).toNat).valid = true →
    (∀ k < len.toNat, (s.page (readPage s la k)).resident = true) →
    s.clock.toNat + pagedStamps s la len < 2 ^ 64 →
    ∃ t, ends (exec (.read la len) s) t .ok ∧
      t = { s with seq := t.seq, clock := t.clock, st := t.st, rpt := t.rpt } ∧
      t.clock.toNat = s.clock.toNat + pagedStamps s la len ∧
      t.seg (selOf la).toNat = { s.seg (selOf la).toNat with ts := s.clock + 1 } ∧
      (∀ i, i ≠ (selOf la).toNat → t.seg i = s.seg i) ∧
      (∀ f, t.frame f = { s.frame f with ts := (t.frame f).ts }) ∧
      (∀ f, (∀ k < len.toNat, (s.page (readPage s la k)).frame ≠ f) → t.frame f = s.frame f) ∧
      t.response.data.length = len.toNat ∧
      ∀ k < len.toNat, t.response.data[k]? = some (s.byte
        ((s.page (readPage s la k)).frame * s.cfg.pageSize + readLin s la k % s.cfg.pageSize))

/-- A paged READ within capacity and before the end of CLOCK ends with OK and LEN bytes; CLOCK moves by one for each registered page, one for the descriptor and one for each chunk (R127, R130, R131, R133). -/
def Obligations.PagedReadEndsAndStamps : Prop :=
  ∀ (s : State) (la : LogicalAddr) (len : Word32), s.Inv → s.fatal = false → s.mode.seg = true →
    s.mode.pag = true → readable la len s →
    ((s.seg (selOf la).toNat).valid = true ∨
      s.regionSize (s.seg (selOf la).toNat) ≤ s.cfg.memSize) →
    s.clock.toNat + pagedStamps s la len < 2 ^ 64 →
    ∃ t, ends (exec (.read la len) s) t .ok ∧
      t.clock.toNat = s.clock.toNat + pagedStamps s la len ∧
      t.response.data.length = len.toNat ∧
      (t.seg (selOf la).toNat).valid = true ∧
      (t.seg (selOf la).toNat).ts.toNat + chunkCount s.cfg (readLin s la 0) len.toNat = t.clock.toNat ∧
      (0 < len.toNat → (t.page (readPage s la (len.toNat - 1))).resident = true)

/-- While no resident byte differs from its source, a READ in segment or paged mode that ends with OK returns the backing store's bytes, whatever was evicted, moved or replaced on the way (R140, 95 section 5). -/
def Obligations.TranslatedReadReturnsTheBackingStore : Prop :=
  ∀ (s t : State) (la : LogicalAddr) (len : Word32), s.Inv → s.coherent → s.mode.seg = true →
    exec (.read la len) s = .next t → t.seq.status = .ok →
    bytesAt (Memory.read s.cfg.disk)
      ((s.seg (selOf la).toNat).diskBase.toNat + (offOf la).toNat) len.toNat t.response.data

/-- No command but WRITE, and outside paged mode a REGSEG that asserts residency, makes a resident byte differ from its source (R76, R140, R283). -/
def Obligations.ResidentCopiesStayCoherent : Prop :=
  ∀ (i : Instr) (s t : State), s.Inv → s.coherent → i.wellFormed = true → mayDesync i s = false →
    exec i s = .next t → t.coherent

/-- Repeating a successful segment-mode READ returns the same bytes and causes no event (R140). -/
def Obligations.RepeatedSegmentReadIsIdempotent : Prop :=
  ∀ (s t : State) (la : LogicalAddr) (len : Word32), s.Inv → s.mode.seg = true →
    s.mode.pag = false → exec (.read la len) s = .next t → t.seq.status = .ok →
    t.clock ≠ BitVec.allOnes 64 →
    ∃ u, ends (exec (.read la len) t) u .ok ∧ u.response = t.response ∧ u.trace = t.trace ∧
      u.mem = t.mem

/-- A successful paged READ that touches no more pages than there are frames leaves every page it touched resident: no chunk's fault evicts a page of an earlier chunk (R135). -/
def Obligations.PagedReadEvictsNoneOfItsPages : Prop :=
  ∀ (s t : State) (la : LogicalAddr) (len : Word32), s.Inv → s.mode.seg = true →
    s.mode.pag = true → exec (.read la len) s = .next t → t.seq.status = .ok →
    chunkCount s.cfg (readLin s la 0) len.toNat ≤ s.cfg.numFrames →
    ∀ k < len.toNat, (t.page (readPage s la k)).resident = true

/-- Repeating a successful paged READ that touches no more pages than there are frames returns the same bytes and causes no event (R135, R140). -/
def Obligations.RepeatedPagedReadIsIdempotent : Prop :=
  ∀ (s t : State) (la : LogicalAddr) (len : Word32), s.Inv → s.mode.seg = true →
    s.mode.pag = true → exec (.read la len) s = .next t → t.seq.status = .ok →
    chunkCount s.cfg (readLin s la 0) len.toNat ≤ s.cfg.numFrames →
    t.clock.toNat + 1 + chunkCount s.cfg (readLin s la 0) len.toNat < 2 ^ 64 →
    ∃ u, ends (exec (.read la len) t) u .ok ∧ u.response = t.response ∧ u.trace = t.trace ∧
      u.mem = t.mem

/-- What a READ leaves alone, however it ends (R33, R36, R45, R120): parameters, mode and port; every descriptor's populated flag, disk base and limit, and every other descriptor's timestamp; outside paged mode both page tables; and no page entry loses its populated flag. -/
def Obligations.ReadKeepsRegistrations : Prop :=
  ∀ (s t : State) (la : LogicalAddr) (len : Word32), exec (.read la len) s = .next t →
    t.cfg = s.cfg ∧ t.mode = s.mode ∧ t.input = s.input ∧
    (∀ i, (t.seg i).populated = (s.seg i).populated ∧ (t.seg i).diskBase = (s.seg i).diskBase ∧
      (t.seg i).limit = (s.seg i).limit) ∧
    (∀ i, i ≠ (selOf la).toNat → (t.seg i).ts = (s.seg i).ts) ∧
    (s.mode.pag = false → t.pt = s.pt ∧ t.rpt = s.rpt) ∧
    (∀ v, (s.page v).populated = true → (t.page v).populated = true)

/-- The sequencer states a successful READ visits, in every mode (R121, R135), as the model records them (log entry 9). In paged mode a chunk visits PAGE_FAULT where its page was not resident and was not among those just registered, and no chunk does where the descriptor was valid and every page resident. PagedReadFollowsItsVisits says which chunks do in all other cases. -/
def Obligations.SuccessfulReadPaths : Prop :=
  ∀ (s t : State) (la : LogicalAddr) (len : Word32), exec (.read la len) s = .next t →
    t.seq.status = .ok →
    (s.mode.seg = false →
      t.seq.path = [.decode, .linearCompute, .physicalCompute, .access, .done]) ∧
    (s.mode.seg = true → s.mode.pag = false →
      t.seq.path = [.decode, .segmentLookup] ++
        (if (s.seg (selOf la).toNat).valid then [] else [.segmentFault]) ++
        [.linearCompute, .physicalCompute, .access, .done]) ∧
    (s.mode.seg = true → s.mode.pag = true → ∃ faults : List Bool,
      faults.length = chunkCount s.cfg (readLin s la 0) len.toNat ∧
      (∀ k < faults.length, (s.page (readPage s la 0 + k)).resident = false →
        readPage s la 0 + k ∉ (visitedPages s la len).take (registeredPages s la) →
        faults[k]? = some true) ∧
      ((s.seg (selOf la).toNat).valid = true →
        (∀ k < faults.length, (s.page (readPage s la 0 + k)).resident = true) →
        ∀ k < faults.length, faults[k]? = some false) ∧
      t.seq.path = [.decode, .segmentLookup] ++
        (if (s.seg (selOf la).toNat).valid then [] else [.segmentFault]) ++
        [.linearCompute] ++ faults.flatMap chunkPath ++ [.done])

/-! ## The segment table -/

/-- The first gap that fits starts at the lowest place where a region of that size is free (R161, R162). -/
def Obligations.FirstFitIsTheLowestFreePlace : Prop :=
  ∀ (s : State) (size a : Nat), s.Sound → 1 ≤ size →
    (firstFit size s = some a ↔ freeAt s size a ∧ ∀ b < a, ¬ freeAt s size b)

/-- The gaps are all of ResidentMemory that the valid regions leave (R161). -/
def Obligations.GapsAndRegionsFillMemory : Prop :=
  ∀ s : State, s.Sound →
    totalFree s + ((validEntries s).map fun p => s.regionSize p.2).sum = s.cfg.memSize

/-- The victims are the valid descriptors, oldest stamp first, ties by lower selector (R164). -/
def Obligations.VictimsAreOldestFirst : Prop :=
  ∀ s : State, s.Sound →
    (∀ i, i ∈ victimOrder s ↔ i < s.cfg.numSegments ∧ (s.seg i).valid = true) ∧
    (victimOrder s).Pairwise fun i j =>
      (s.seg i).ts < (s.seg j).ts ∨ (s.seg i).ts = (s.seg j).ts ∧ i < j

/-- Eviction takes victims in order and stops at the first after which enough is free (R165, R171). -/
def Obligations.EvictionStopsWhenEnoughIsFree : Prop :=
  ∀ (s : State) (size : Nat), totalFree s < size →
    ∃ n ≤ (victimOrder s).length,
      evictUntil size (victimOrder s) s =
        ((victimOrder s).take n).foldl (fun u i => u.setSeg i { u.seg i with valid := false }) s ∧
      (∀ m < n, totalFree (((victimOrder s).take m).foldl
        (fun u i => u.setSeg i { u.seg i with valid := false }) s) < size) ∧
      (n = (victimOrder s).length ∨ size ≤ totalFree (evictUntil size (victimOrder s) s))

/-- Compaction ends; ValidOrder is the valid descriptors by base, ties by selector, and in that order their regions are packed from address 0; it leaves one gap, above all regions; each descriptor changes in its base alone; outside paged mode the bytes of every valid region move with it, and each region that holds bytes and is not in place sends exactly one notice, in that order; in paged mode nothing but the segment table changes (R161, R163, R176). -/
def Obligations.CompactionPacksAndKeepsBytes : Prop :=
  ∀ s : State, s.Sound →
    ∃ t, compact s = .ok () t ∧
      gaps t = (if totalFree s = 0 then []
        else [(s.cfg.memSize - totalFree s, s.cfg.memSize)]) ∧
      (∀ i, i ∈ validOrder s ↔ i < s.cfg.numSegments ∧ (s.seg i).valid = true) ∧
      (validOrder s).Pairwise (fun i j => (s.seg i).base < (s.seg j).base ∨
        (s.seg i).base = (s.seg j).base ∧ i < j) ∧
      (∀ p ∈ packing s (validOrder s) 0,
        t.seg p.1 = { s.seg p.1 with base := toReg32 p.2 }) ∧
      (∀ i, (s.seg i).valid = false → t.seg i = s.seg i) ∧
      t = { s with st := t.st, mem := t.mem, trace := t.trace } ∧
      t.trace = s.trace ++ (if s.mode.pag then []
        else packingNotices s (packing s (validOrder s) 0)) ∧
      (s.mode.pag = false → ∀ i < s.cfg.numSegments, (s.seg i).valid = true →
        ∀ k < (s.seg i).limit.toNat,
          t.byte ((t.seg i).base.toNat + k) = s.byte ((s.seg i).base.toNat + k)) ∧
      (s.mode.pag = true → t = { s with st := t.st })

/-- A request that fits the memory is always placed, in free space, and I-SEG still holds: by first-fit with nothing changed where a gap fits; else at the end of the block packed by a compaction, after evictions only where too little was free (R165, R169, R176). -/
def Obligations.AllocationAlwaysFindsRoom : Prop :=
  ∀ (s : State) (size : Nat), s.Sound → 1 ≤ size → size ≤ s.cfg.memSize →
    ∃ a t, allocate size s = .ok a t ∧ freeAt t size a ∧ t.iSeg ∧
      t = { s with st := t.st, mem := t.mem, trace := t.trace } ∧
      (∀ i, ∃ b v, t.seg i = { s.seg i with base := b, valid := v } ∧
        (v = true → (s.seg i).valid = true)) ∧
      (size ≤ totalFree s → ∀ i, (t.seg i).valid = (s.seg i).valid) ∧
      (∀ b, firstFit size s = some b → a = b ∧ t = s) ∧
      (firstFit size s = none → a = s.cfg.memSize - totalFree t ∧
        compact (if size ≤ totalFree s then s else evictUntil size (victimOrder s) s) = .ok () t)

/-! ## The page table -/

/-- The frame for a page: the lowest free frame, and then nothing changes; else the oldest frame, lowest first, whose page is evicted in both tables (R194, R195, R196). -/
def Obligations.FrameChoiceIsFreeElseOldest : Prop :=
  ∀ s : State, s.Sound →
    ∃ f t, chooseFrame s = .ok f t ∧ f < s.cfg.numFrames ∧
      ((∃ g < s.cfg.numFrames, (s.frame g).resident = false) →
        t = s ∧ (s.frame f).resident = false ∧ ∀ g < f, (s.frame g).resident = true) ∧
      ((∀ g < s.cfg.numFrames, (s.frame g).resident = true) →
        (∀ g < s.cfg.numFrames, (s.frame f).ts < (s.frame g).ts ∨
          (s.frame f).ts = (s.frame g).ts ∧ f ≤ g) ∧
        t = { s with pt := t.pt, rpt := t.rpt } ∧
        t.page (s.frame f).owner = { s.page (s.frame f).owner with resident := false } ∧
        (∀ v, v ≠ (s.frame f).owner → t.page v = s.page v) ∧
        t.frame f = { s.frame f with resident := false, owner := 0 } ∧
        ∀ g, g ≠ f → t.frame g = s.frame g)

/-- EnsurePage makes a populated page resident, stamps its frame once and answers the frame: a hit changes nothing else; a fault loads exactly the page's bytes into the frame, by one backing-store read and one notice, and touches no other byte of memory and no descriptor (R191, R192, R198, R199). -/
def Obligations.EnsurePageLoadsAndStamps : Prop :=
  ∀ (s : State) (v : Nat) (visit : Bool), s.Sound → s.clock ≠ BitVec.allOnes 64 →
    v < s.cfg.numVPages → (s.page v).populated = true →
    ∃ f t, ensurePage visit v s = .ok f t ∧ f < s.cfg.numFrames ∧
      t.page v = ⟨true, true, f⟩ ∧ t.frame f = ⟨true, v, s.clock + 1⟩ ∧
      ((s.page v).resident = true → f = (s.page v).frame ∧
        t = { s with clock := s.clock + 1, rpt := t.rpt } ∧
        ∀ g, g ≠ f → t.frame g = s.frame g) ∧
      ((s.page v).resident = false →
        t = { s with
          clock := s.clock + 1
          pt := t.pt
          rpt := t.rpt
          mem := t.mem
          seq := t.seq
          trace := s.trace ++ visitEvents s.cfg ⟨v, f, true⟩ } ∧
        (∀ k < s.cfg.pageSize, t.byte (f * s.cfg.pageSize + k) =
          Memory.read s.cfg.disk (v * s.cfg.pageSize + k)) ∧
        (∀ a, a < f * s.cfg.pageSize ∨ f * s.cfg.pageSize + s.cfg.pageSize ≤ a →
          t.byte a = s.byte a) ∧
        (∀ g, g ≠ f → t.frame g = s.frame g) ∧
        ∀ w, w ≠ v → t.page w = s.page w ∨
          (s.page w).frame = f ∧ t.page w = { s.page w with resident := false })

/-- R193: the three consistency checks. Each that fails raises InternalConsistency with FATAL set and changes nothing more. -/
def Obligations.BrokenPageTablesAreFatal : Prop :=
  (∀ (s : State) (v : Nat) (visit : Bool), v < s.cfg.numVPages →
    ((s.page v).populated = false →
      ensurePage visit v s = .raised .internalConsistency { s with fatal := true }) ∧
    ((s.page v).populated = true → (s.page v).resident = true →
      s.cfg.numFrames ≤ (s.page v).frame ∨ (s.frame (s.page v).frame).resident = false ∨
        (s.frame (s.page v).frame).owner ≠ v →
      ensurePage visit v s = .raised .internalConsistency { s with fatal := true })) ∧
  ∀ s : State, (∀ g < s.cfg.numFrames, (s.frame g).resident = true) →
    (s.page (s.frame (oldestFrame s)).owner).resident = false ∨
      (s.page (s.frame (oldestFrame s)).owner).frame ≠ oldestFrame s →
    chooseFrame s = .raised .internalConsistency { s with fatal := true }

/-! ## The other commands -/

/-- R211: WRITE. -/
def Obligations.WriteStoresThePayload : Prop :=
  ∀ (s : State) (pa len : Word32) (data : List Byte), data.length = len.toNat →
    (s.fatal = true → endsUnchanged (exec (.write pa len data) s) s .internalConsistency) ∧
    (s.fatal = false → s.cfg.memSize < pa.toNat + len.toNat →
      endsUnchanged (exec (.write pa len data) s) s .invalidAddress) ∧
    (s.fatal = false → pa.toNat + len.toNat ≤ s.cfg.memSize →
      ∃ t, ends (exec (.write pa len data) s) t .ok ∧
        t = { s with
          seq := t.seq
          mem := t.mem
          trace := s.trace ++ if len = 0 then [] else [.notice pa len] } ∧
        bytesAt t.byte pa.toNat len.toNat data ∧
        ∀ a, a < pa.toNat ∨ pa.toNat + len.toNat ≤ a → t.byte a = s.byte a)

/-- R215: REGSEG's checks, in order, before anything is changed. -/
def Obligations.RegsegRefusesWhatBreaksInvariants : Prop :=
  ∀ (s : State) (index : BitVec 13) (base diskBase : Word32) (limit : BitVec 31) (valid : Bool),
    s.Inv → s.fatal = false →
    (s.cfg.numSegments ≤ index.toNat →
      endsUnchanged (exec (.regseg index base diskBase limit valid) s) s .segmentFault) ∧
    (index.toNat < s.cfg.numSegments →
      (s.cfg.diskSize < diskBase.toNat + limit.toNat →
        endsUnchanged (exec (.regseg index base diskBase limit valid) s) s .badRequest) ∧
      (diskBase.toNat + limit.toNat ≤ s.cfg.diskSize → valid = true →
        (s.cfg.memSize < base.toNat + s.regionSize ⟨true, base, diskBase, limit, valid, 0⟩ ∨
          ∃ j < s.cfg.numSegments, j ≠ index.toNat ∧ (s.seg j).valid = true ∧
            ¬ apart base.toNat (s.regionSize ⟨true, base, diskBase, limit, valid, 0⟩)
              (s.seg j).base.toNat (s.regionSize (s.seg j))) →
        endsUnchanged (exec (.regseg index base diskBase limit valid) s) s .badRequest))

/-- REGSEG that passes its checks replaces one descriptor whole and, in paged mode with VALID = 1, marks its pages populated; nothing else changes (R214, R216). -/
def Obligations.RegsegWritesTheDescriptor : Prop :=
  ∀ (s : State) (index : BitVec 13) (base diskBase : Word32) (limit : BitVec 31) (valid : Bool),
    s.Inv → s.fatal = false → index.toNat < s.cfg.numSegments →
    diskBase.toNat + limit.toNat ≤ s.cfg.diskSize →
    (valid = true →
      base.toNat + s.regionSize ⟨true, base, diskBase, limit, valid, 0⟩ ≤ s.cfg.memSize ∧
      ∀ j < s.cfg.numSegments, j ≠ index.toNat → (s.seg j).valid = true →
        apart base.toNat (s.regionSize ⟨true, base, diskBase, limit, valid, 0⟩)
          (s.seg j).base.toNat (s.regionSize (s.seg j))) →
    ∃ t, ends (exec (.regseg index base diskBase limit valid) s) t .ok ∧
      t = { s with seq := t.seq, st := t.st, pt := t.pt } ∧
      t.seg index.toNat = ⟨true, base, diskBase, limit, valid, 0⟩ ∧
      (∀ j, j ≠ index.toNat → t.seg j = s.seg j) ∧
      ∀ v, t.page v =
        if valid = true ∧ s.mode.pag = true ∧ limit ≠ 0 ∧
          diskBase.toNat / s.cfg.pageSize ≤ v ∧
          v ≤ (diskBase.toNat + limit.toNat - 1) / s.cfg.pageSize
        then { s.page v with populated := true } else s.page v

/-- R218: INVSEG. -/
def Obligations.InvsegClearsTheValidFlag : Prop :=
  ∀ (s : State) (index : BitVec 13),
    (s.fatal = true → endsUnchanged (exec (.invseg index) s) s .internalConsistency) ∧
    (s.fatal = false →
      s.cfg.numSegments ≤ index.toNat ∨ (s.seg index.toNat).populated = false →
      endsUnchanged (exec (.invseg index) s) s .segmentFault) ∧
    (s.fatal = false → index.toNat < s.cfg.numSegments →
      (s.seg index.toNat).populated = true →
      ∃ t, ends (exec (.invseg index) s) t .ok ∧ t = { s with seq := t.seq, st := t.st } ∧
        t.seg index.toNat = { s.seg index.toNat with valid := false } ∧
        ∀ j, j ≠ index.toNat → t.seg j = s.seg j)

/-- R221: INVPAGE. -/
def Obligations.InvpageFreesTheFrame : Prop :=
  ∀ (s : State) (vpn : Word32),
    (s.fatal = true → endsUnchanged (exec (.invpage vpn) s) s .internalConsistency) ∧
    (s.fatal = false → s.cfg.numVPages ≤ vpn.toNat →
      endsUnchanged (exec (.invpage vpn) s) s .invalidAddress) ∧
    (s.fatal = false → vpn.toNat < s.cfg.numVPages → (s.page vpn.toNat).resident = false →
      endsUnchanged (exec (.invpage vpn) s) s .ok) ∧
    (s.fatal = false → vpn.toNat < s.cfg.numVPages → (s.page vpn.toNat).resident = true →
      ∃ t, ends (exec (.invpage vpn) s) t .ok ∧
        t = { s with seq := t.seq, pt := t.pt, rpt := t.rpt } ∧
        t.page vpn.toNat = { s.page vpn.toNat with resident := false } ∧
        (∀ v, v ≠ vpn.toNat → t.page v = s.page v) ∧
        t.frame (s.page vpn.toNat).frame =
          { s.frame (s.page vpn.toNat).frame with resident := false, owner := 0 } ∧
        ∀ f, f ≠ (s.page vpn.toNat).frame → t.frame f = s.frame f)

/-- R224: CLEAR. -/
def Obligations.ClearEmptiesTheTables : Prop :=
  ∀ s : State,
    (s.fatal = true → endsUnchanged (exec .clear s) s .internalConsistency) ∧
    (s.fatal = false →
      ∃ t, ends (exec .clear s) t .ok ∧
        t = { s with seq := t.seq, st := t.st, pt := t.pt, rpt := t.rpt, clock := 0 } ∧
        (∀ i, t.seg i = ⟨false, 0, 0, 0, false, 0⟩) ∧
        (∀ v, t.page v = ⟨false, false, 0⟩) ∧ ∀ f, t.frame f = ⟨false, 0, 0⟩)

/-- R230, R232, R233: SETMODE. -/
def Obligations.SetmodeWritesOrRefuses : Prop :=
  ∀ (s : State) (seg pag : Bool), s.canonical →
    (s.fatal = true → endsUnchanged (exec (.setmode seg pag) s) s .internalConsistency) ∧
    (s.fatal = false → pag = true → seg = false →
      endsUnchanged (exec (.setmode seg pag) s) s .badRequest) ∧
    (s.fatal = false → (pag = true → seg = true) →
      (pag ≠ s.mode.pag → ¬ nothingRegistered s →
        endsUnchanged (exec (.setmode seg pag) s) s .badRequest) ∧
      (pag = s.mode.pag ∨ nothingRegistered s →
        ∃ t, ends (exec (.setmode seg pag) s) t .ok ∧
          t = { s with seq := t.seq, mode := ⟨seg, pag⟩ }))

/-- INVSEG and INVPAGE commute (R110): in either order they leave the same state, but for the sequencer's registers. -/
def Obligations.InvsegAndInvpageCommute : Prop :=
  ∀ (s a b c d : State) (index : BitVec 13) (vpn : Word32),
    exec (.invseg index) s = .next a → exec (.invpage vpn) a = .next b →
    exec (.invpage vpn) s = .next c → exec (.invseg index) c = .next d →
    d = { b with seq := d.seq }

/-! ## Rules of the whole machine -/

/-- Every change of a byte of ResidentMemory is announced: a byte outside every notice of a well-formed command is as it was (R64, R68). Every decoded command is well-formed (R98). -/
def Obligations.MemoryChangesAreAnnounced : Prop :=
  ∀ (i : Instr) (s t : State), s.cfg.wf → i.wellFormed = true → exec i s = .next t →
    ∃ events, t.trace = s.trace ++ events ∧
      ∀ a, (∀ b n, .notice b n ∈ events → ¬ noticeCovers s.cfg b n a) → t.byte a = s.byte a

/-- Every backing-store read and every notice of a well-formed command is of one byte or more inside its device (R66, R68, R139). Every decoded command is well-formed (R98). -/
def Obligations.EventsStayInsideTheDevices : Prop :=
  ∀ (i : Instr) (s t : State), s.cfg.wf → i.wellFormed = true → exec i s = .next t →
    ∃ events, t.trace = s.trace ++ events ∧
      (∀ off n, .bsRead off n ∈ events → rangeInside s.cfg s.cfg.diskSize off n) ∧
      ∀ a n, .notice a n ∈ events → rangeInside s.cfg s.cfg.memSize a n

/-- The tables and ResidentMemory are apart: the table and mode commands change no byte and cause no event; WRITE changes no table, no mode and no stamp and reads no backing store (R68, R75, R211). -/
def Obligations.TablesAndMemoryAreApart : Prop :=
  (∀ (i : Instr) (s t : State), exec i s = .next t → (∀ la len, i ≠ .read la len) →
    (∀ pa len data, i ≠ .write pa len data) → t.mem = s.mem ∧ t.trace = s.trace) ∧
  ∀ (pa len : Word32) (data : List Byte) (s t : State), exec (.write pa len data) s = .next t →
    t = { s with seq := t.seq, mem := t.mem, trace := t.trace } ∧
    ∀ off n, .bsRead off n ∈ t.trace → .bsRead off n ∈ s.trace

/-- The commands other than READ run in DECODE, but for a successful WRITE, which visits ACCESS (R121, R210), as the model records the states (log entry 9). -/
def Obligations.OtherCommandsRunInDecode : Prop :=
  ∀ (i : Instr) (s t : State), exec i s = .next t → i.opcode ≠ 0 →
    t.seq.path = if i.opcode = 1 ∧ t.seq.status = .ok then [.decode, .access, .done]
      else [.decode, .done]

/-! ## Paged READs in full, and safe runs -/

/-- A paged READ that registers, hits and faults, in full: there is one visit of EnsurePage for each page registered and each chunk, in order, and the tables, the stamps, the memory, the events, the path and the answer are what those visits make of the state; a registration places its reservation where Allocate answers, and with LEN = 0 leaves every page it registered resident (R121, R126, R130, R131, R137, R168, R191 to R199). -/
def Obligations.PagedReadFollowsItsVisits : Prop :=
  ∀ (s : State) (la : LogicalAddr) (len : Word32), s.Inv → s.fatal = false → s.mode.seg = true →
    s.mode.pag = true → readable la len s →
    ((s.seg (selOf la).toNat).valid = true ∨
      s.regionSize (s.seg (selOf la).toNat) ≤ s.cfg.memSize) →
    s.clock.toNat + pagedStamps s la len < 2 ^ 64 →
    ∃ t visits, ends (exec (.read la len) s) t .ok ∧
      t = { s with
        seq := t.seq
        clock := t.clock
        st := t.st
        pt := t.pt
        rpt := t.rpt
        mem := t.mem
        trace := t.trace } ∧
      PagedEffect s t la len visits ∧
      ((s.seg (selOf la).toNat).valid = true →
        t.seg (selOf la).toNat = { s.seg (selOf la).toNat with ts := s.clock + 1 } ∧
        ∀ i, i ≠ (selOf la).toNat → t.seg i = s.seg i) ∧
      ((s.seg (selOf la).toNat).valid = false → ∃ a w,
        allocate (halfCount s.cfg (s.seg (selOf la).toNat) * s.cfg.pageSize) s = .ok a w ∧
        t.seg (selOf la).toNat = { s.seg (selOf la).toNat with
          base := BitVec.ofNat 32 a
          valid := true
          ts := s.clock + BitVec.ofNat 64 (registeredPages s la) + 1 } ∧
        ∀ i, i ≠ (selOf la).toNat → t.seg i = w.seg i) ∧
      (len = 0 → ∀ v ∈ visitedPages s la len, (t.page v).resident = true)

/-- A command whose stamps would take CLOCK past 2^64 - 1 is refused whole: InternalConsistency, FATAL set, nothing else changed and no event (R31, 93 U9; log entry 10). -/
def Obligations.CommandThatWouldWrapIsRefused : Prop :=
  ∀ (i : Instr) (s : State), s.Inv → s.fatal = false →
    2 ^ 64 ≤ s.clock.toNat + commandStamps i s →
    endsUnchanged (exec i s) { s with fatal := true } .internalConsistency

/-- In a state that satisfies the invariant, with FATAL clear, a step on a command is safe exactly when CLOCK has room for its stamps; the reset event is safe; no other step on a state with FATAL set is (R246, 93 U9, U10). -/
def Obligations.SafeStepsLeaveFatalClear : Prop :=
  (∀ (s : State) (i : Instr) (rest : List Input), s.Inv → s.fatal = false →
    decode s.input = .ok (i, rest) →
    (safeStep s ↔ s.clock.toNat + commandStamps i s < 2 ^ 64)) ∧
  (∀ (s : State) (rest : List Input), s.seq.fsm = .idle → s.input = .reset :: rest → safeStep s) ∧
  ∀ s : State, s.fatal = true → s.input.head? ≠ some .reset → ¬ safeStep s
end

