-- ==== Sys2Proof/Laws/Encoding.lean ====
section
/-! SUPPORT. How the fields of a command word read back: a field placed at a bit is read at that bit, and nothing else is. -/

namespace Sys2Proof

/-- Reading bits of a field (R7). -/
theorem bitField_getLsbD (w : CmdWord) (lo n k : Nat) :
    (bitField w lo n).getLsbD k = (decide (k < n) && w.getLsbD (lo + k)) := by
  simp [bitField, BitVec.getLsbD_extractLsb']

/-- A placed operand has no bit above its width. -/
theorem placeField_above {n : Nat} (x : BitVec n) (lo k : Nat) (h : lo + n ≤ k) :
    (placeField x lo).getLsbD k = false := by
  simp only [placeField, BitVec.getLsbD_shiftLeft, BitVec.getLsbD_setWidth]
  rw [BitVec.getLsbD_of_ge x (k - lo) (by omega)]
  simp

/-- A placed operand has no bit below its place. -/
theorem placeField_below {n : Nat} (x : BitVec n) (lo k : Nat) (h : k < lo) :
    (placeField x lo).getLsbD k = false := by
  simp [placeField, h]

/-- A placed operand's bit `k` stands at bit `lo + k`. -/
theorem placeField_at {n : Nat} (x : BitVec n) (lo k : Nat) (h : lo + k < 128) :
    (placeField x lo).getLsbD (lo + k) = x.getLsbD k := by
  simp only [placeField, BitVec.getLsbD_shiftLeft, BitVec.getLsbD_setWidth, h, decide_true,
    Bool.true_and]
  have h1 : ¬ lo + k < lo := by omega
  have h2 : k < 128 := by omega
  simp [h1, h2]

/-- No operand reaches the opcode bits (R97 to R103). -/
theorem operandField_above (i : Instr) (k : Nat) (h : 109 ≤ k) :
    (operandField i).getLsbD k = false := by
  cases i <;>
    simp only [operandField, packDescriptor, BitVec.getLsbD_or, BitVec.ofNat_eq_ofNat, BitVec.getLsbD_zero] <;>
    repeat rw [placeField_above _ _ _ (by omega)] <;> simp

/-- The opcode field of an encoded command is its opcode (R96, R104). -/
theorem opOf_encodeWord (i : Instr) : opOf (encodeWord i) = i.opcode := by
  apply BitVec.eq_of_getLsbD_eq
  intro k hk
  rw [opOf, bitField_getLsbD, encodeWord, BitVec.getLsbD_or, placeField_at _ _ _ (by omega),
    operandField_above _ _ (by omega)]
  simp [hk]

end Sys2Proof
end

