-- ==== Sys2Proof/Laws/Sparse.lean ====
section
/-! SUPPORT. Laws of sparse tables and byte memories: read after write, frame, canonical form, extensionality. -/

namespace Sys2Proof.Machine

section
variable {α : Type} (d : α)

@[simp] theorem Sparse.get_nil (a : Nat) : Sparse.get d [] a = d := rfl

theorem Sparse.get_cons (k : Nat) (v : α) (t : Sparse α) (a : Nat) :
    Sparse.get d ((k, v) :: t) a = if k = a then v else Sparse.get d t a := rfl

theorem Sparse.get_append_right (t u : Sparse α) (a : Nat) (h : a ∉ t.map Prod.fst) :
    Sparse.get d (t ++ u) a = Sparse.get d u a := by
  induction t with
  | nil => rfl
  | cons p t ih =>
    obtain ⟨k, v⟩ := p
    simp only [List.map_cons, List.mem_cons, not_or] at h
    simp [Sparse.get_cons, Ne.symm h.1, ih h.2]

theorem Sparse.get_append_left (t u : Sparse α) (a : Nat) (h : Sparse.get d u a = d) :
    Sparse.get d (t ++ u) a = Sparse.get d t a := by
  induction t with
  | nil => simpa using h
  | cons p t ih =>
    obtain ⟨k, v⟩ := p
    simp [Sparse.get_cons, ih]

theorem Sparse.get_eq_default (t : Sparse α) (a : Nat) (h : a ∉ t.map Prod.fst) :
    Sparse.get d t a = d := by
  induction t with
  | nil => rfl
  | cons p t ih =>
    obtain ⟨k, v⟩ := p
    simp only [List.map_cons, List.mem_cons, not_or] at h
    simp [Sparse.get_cons, Ne.symm h.1, ih h.2]

theorem Sparse.get_filter_key (t : Sparse α) (P : Nat → Bool) (a : Nat) :
    Sparse.get d (t.filter fun p => P p.1) a = if P a then Sparse.get d t a else d := by
  induction t with
  | nil => simp
  | cons p t ih =>
    obtain ⟨k, v⟩ := p
    by_cases hk : P k
    · by_cases h : k = a
      · subst h; simp [hk, Sparse.get_cons]
      · simp [hk, Sparse.get_cons, h, ih]
    · by_cases h : k = a
      · subst h; simp [hk, ih]
      · simp [hk, Sparse.get_cons, h, ih]

theorem Sparse.get_zip_range' (a : Nat) (vs : List α) (b : Nat) :
    Sparse.get d ((List.range' a vs.length).zip vs) b =
      if a ≤ b then vs.getD (b - a) d else d := by
  induction vs generalizing a with
  | nil => simp
  | cons v vs ih =>
    simp only [List.length_cons, List.range'_succ, List.zip_cons_cons, Sparse.get_cons, ih]
    by_cases h : a = b
    · subst h; simp
    · by_cases hlt : a ≤ b
      · have h1 : a + 1 ≤ b := by omega
        have h2 : b - a = (b - (a + 1)) + 1 := by omega
        simp [h, h1, hlt, h2]
      · have h1 : ¬ a + 1 ≤ b := by omega
        simp [h, h1, hlt]

theorem Sparse.keys_zip_range' (a : Nat) (vs : List α) :
    ((List.range' a vs.length).zip vs).map Prod.fst = List.range' a vs.length :=
  List.map_fst_zip (by simp)

variable [DecidableEq α]

theorem Sparse.get_filter_default (t : Sparse α) (ht : (t.map Prod.fst).Nodup) (a : Nat) :
    Sparse.get d (t.filter fun p => p.2 ≠ d) a = Sparse.get d t a := by
  induction t with
  | nil => rfl
  | cons p t ih =>
    obtain ⟨k, v⟩ := p
    simp only [List.map_cons, List.nodup_cons] at ht
    by_cases hv : v = d
    · by_cases h : k = a
      · subst h
        rw [List.filter_cons_of_neg (by simpa using hv), ih ht.2]
        simp [Sparse.get_cons, hv, Sparse.get_eq_default d t k ht.1]
      · rw [List.filter_cons_of_neg (by simpa using hv), ih ht.2]
        simp [Sparse.get_cons, h]
    · rw [List.filter_cons_of_pos (by simpa using hv)]
      simp only [Sparse.get_cons, ih ht.2]

/-- Reading after `setRange`: the new value inside the range, the old one outside. -/
theorem Sparse.get_setRange (t : Sparse α) (a : Nat) (vs : List α) (b : Nat) :
    Sparse.get d (Sparse.setRange d t a vs) b =
      if a ≤ b ∧ b < a + vs.length then vs.getD (b - a) d else Sparse.get d t b := by
  have hnodup : ((((List.range' a vs.length).zip vs)).map Prod.fst).Nodup := by
    rw [Sparse.keys_zip_range']; exact List.nodup_range'
  have hlisted : Sparse.get d (Sparse.listed d a vs) b = if a ≤ b then vs.getD (b - a) d else d := by
    rw [Sparse.listed, Sparse.get_filter_default d _ hnodup, Sparse.get_zip_range']
  have hkeys : b ∈ (Sparse.listed d a vs).map Prod.fst → a ≤ b ∧ b < a + vs.length := by
    intro h
    obtain ⟨p, hp, rfl⟩ := List.mem_map.1 h
    have hp' := (List.mem_filter.1 hp).1
    have : p.1 ∈ List.range' a vs.length := by
      rw [← Sparse.keys_zip_range']; exact List.mem_map_of_mem hp'
    simpa [List.mem_range'_1] using this
  have hlow : Sparse.get d (t.filter fun p => decide (p.1 < a)) b =
      if b < a then Sparse.get d t b else d := by
    simpa using Sparse.get_filter_key d t (fun k => decide (k < a)) b
  have hhigh : Sparse.get d (t.filter fun p => decide (a + vs.length ≤ p.1)) b =
      if a + vs.length ≤ b then Sparse.get d t b else d := by
    simpa using Sparse.get_filter_key d t (fun k => decide (a + vs.length ≤ k)) b
  have hlowkey : b ∈ (t.filter fun p => decide (p.1 < a)).map Prod.fst → b < a := by
    intro h
    obtain ⟨p, hp, rfl⟩ := List.mem_map.1 h
    simpa using (List.mem_filter.1 hp).2
  unfold Sparse.setRange
  by_cases h1 : b < a
  · have h2 : ¬ a ≤ b := by omega
    have h3 : ¬ a + vs.length ≤ b := by omega
    rw [Sparse.get_append_left _ _ _ _ (by rw [hhigh, if_neg h3]),
      Sparse.get_append_left _ _ _ _ (by rw [hlisted, if_neg h2]), hlow, if_pos h1,
      if_neg (fun h => h2 h.1)]
  · have hm : b ∉ (t.filter fun p => decide (p.1 < a)).map Prod.fst := fun h => h1 (hlowkey h)
    by_cases h3 : b < a + vs.length
    · have h4 : ¬ a + vs.length ≤ b := by omega
      rw [Sparse.get_append_left _ _ _ _ (by rw [hhigh, if_neg h4]),
        Sparse.get_append_right _ _ _ _ hm, hlisted, if_pos (by omega), if_pos (by omega)]
    · have hl : b ∉ (Sparse.listed d a vs).map Prod.fst := fun h => h3 (hkeys h).2
      rw [List.append_assoc, Sparse.get_append_right _ _ _ _ hm,
        Sparse.get_append_right _ _ _ _ hl, hhigh, if_pos (by omega), if_neg (fun h => h3 h.2)]

@[simp] theorem Sparse.get_set_same (t : Sparse α) (a : Nat) (v : α) :
    Sparse.get d (Sparse.set d t a v) a = v := by
  simp [Sparse.set, Sparse.get_setRange]

theorem Sparse.get_set_other (t : Sparse α) (a : Nat) (v : α) (b : Nat) (h : b ≠ a) :
    Sparse.get d (Sparse.set d t a v) b = Sparse.get d t b := by
  rw [Sparse.set, Sparse.get_setRange, if_neg]
  simp only [List.length_singleton]
  omega

/-- Reading after `set`, both cases at once. -/
theorem Sparse.get_set (t : Sparse α) (a : Nat) (v : α) (b : Nat) :
    Sparse.get d (Sparse.set d t a v) b = if b = a then v else Sparse.get d t b := by
  by_cases h : b = a
  · subst h; simp
  · simp [h, Sparse.get_set_other d t a v b h]

theorem Sparse.mem_listed (a : Nat) (vs : List α) (p : Nat × α) (h : p ∈ Sparse.listed d a vs) :
    a ≤ p.1 ∧ p.1 < a + vs.length ∧ p.2 ≠ d := by
  have hp := List.mem_filter.1 h
  have : p.1 ∈ List.range' a vs.length := by
    rw [← Sparse.keys_zip_range']; exact List.mem_map_of_mem hp.1
  simp only [List.mem_range'_1] at this
  exact ⟨this.1, this.2, by simpa using hp.2⟩

theorem Sparse.listed_sorted (a : Nat) (vs : List α) :
    (Sparse.listed d a vs).Pairwise (fun p q => p.1 < q.1) := by
  apply List.Pairwise.filter
  have : ((((List.range' a vs.length).zip vs)).map Prod.fst).Pairwise (· < ·) := by
    rw [Sparse.keys_zip_range']; exact List.pairwise_lt_range'
  exact (List.pairwise_map.1 this)

/-- `setRange` keeps the canonical form. -/
theorem Sparse.wf_setRange (t : Sparse α) (a : Nat) (vs : List α) (h : Sparse.wf d t) :
    Sparse.wf d (Sparse.setRange d t a vs) := by
  obtain ⟨hs, hd⟩ := h
  refine ⟨?_, ?_⟩
  · unfold Sparse.setRange
    rw [List.pairwise_append, List.pairwise_append]
    refine ⟨⟨hs.filter _, Sparse.listed_sorted d a vs, ?_⟩, hs.filter _, ?_⟩
    · intro p hp q hq
      have h1 : p.1 < a := by simpa using (List.mem_filter.1 hp).2
      have h2 := (Sparse.mem_listed d a vs q hq).1
      omega
    · intro p hp q hq
      have h2 : a + vs.length ≤ q.1 := by simpa using (List.mem_filter.1 hq).2
      rcases List.mem_append.1 hp with hp | hp
      · have h1 : p.1 < a := by simpa using (List.mem_filter.1 hp).2
        omega
      · have h1 := (Sparse.mem_listed d a vs p hp).2.1
        omega
  · intro p hp
    unfold Sparse.setRange at hp
    rcases List.mem_append.1 hp with hp | hp
    · rcases List.mem_append.1 hp with hp | hp
      · exact hd p (List.mem_filter.1 hp).1
      · exact (Sparse.mem_listed d a vs p hp).2.2
    · exact hd p (List.mem_filter.1 hp).1

/-- `set` keeps the canonical form. -/
theorem Sparse.wf_set (t : Sparse α) (a : Nat) (v : α) (h : Sparse.wf d t) :
    Sparse.wf d (Sparse.set d t a v) := Sparse.wf_setRange d t a [v] h

/-- `setRange` inside the bound lists nothing outside it. -/
theorem Sparse.keys_setRange (t : Sparse α) (a : Nat) (vs : List α) (n : Nat)
    (h : ∀ p ∈ t, p.1 < n) (hn : a + vs.length ≤ n) :
    ∀ p ∈ Sparse.setRange d t a vs, p.1 < n := by
  intro p hp
  unfold Sparse.setRange at hp
  rcases List.mem_append.1 hp with hp | hp
  · rcases List.mem_append.1 hp with hp | hp
    · exact h p (List.mem_filter.1 hp).1
    · have := (Sparse.mem_listed d a vs p hp).2.1; omega
  · exact h p (List.mem_filter.1 hp).1

theorem Sparse.keys_set (t : Sparse α) (a : Nat) (v : α) (n : Nat)
    (h : ∀ p ∈ t, p.1 < n) (hn : a < n) : ∀ p ∈ Sparse.set d t a v, p.1 < n :=
  Sparse.keys_setRange d t a [v] n h (by simpa using hn)

/-- In a canonical table the listed pairs are the indices that do not hold the default. -/
theorem Sparse.mem_iff (t : Sparse α) (h : Sparse.wf d t) (k : Nat) (v : α) :
    (k, v) ∈ t ↔ Sparse.get d t k = v ∧ v ≠ d := by
  induction t with
  | nil => constructor
           · intro h; cases h
           · rintro ⟨h1, h2⟩; exact absurd h1.symm h2
  | cons p t ih =>
    obtain ⟨k', v'⟩ := p
    have hs := List.pairwise_cons.1 h.1
    have ht : Sparse.wf d t := ⟨hs.2, fun p hp => h.2 p (List.mem_cons_of_mem _ hp)⟩
    have hv' : v' ≠ d := h.2 (k', v') (List.mem_cons_self ..)
    by_cases hk : k' = k
    · subst hk
      have hnot : (k', v) ∉ t := fun hm => absurd (hs.1 _ hm) (by simp)
      simp only [List.mem_cons, Prod.mk.injEq, true_and, hnot, or_false, Sparse.get_cons, if_true]
      constructor
      · rintro rfl; exact ⟨rfl, hv'⟩
      · rintro ⟨rfl, _⟩; rfl
    · simp only [List.mem_cons, Prod.mk.injEq, Ne.symm hk, false_and, false_or, Sparse.get_cons, hk,
        if_false]
      exact ih ht

/-- Two canonical tables that read alike are one table. -/
theorem Sparse.ext (t u : Sparse α) (ht : Sparse.wf d t) (hu : Sparse.wf d u)
    (h : ∀ a, Sparse.get d t a = Sparse.get d u a) : t = u := by
  have hperm : t.Perm u := by
    have nodup : ∀ w : Sparse α, Sparse.wf d w → w.Nodup := fun w hw =>
      hw.1.imp (fun hlt heq => by subst heq; exact absurd hlt (lt_irrefl _))
    refine (List.perm_ext_iff_of_nodup (nodup t ht) (nodup u hu)).2 ?_
    rintro ⟨k, v⟩
    rw [Sparse.mem_iff d t ht, Sparse.mem_iff d u hu, h]
  exact hperm.eq_of_pairwise (fun a b _ _ h1 h2 => absurd (lt_trans h1 h2) (lt_irrefl _)) ht.1 hu.1

end

/-! ## Byte memories -/

/-- Reading after a write: the written byte inside the range, the old byte outside (R9, R60). -/
theorem Memory.read_write (m : Memory) (a : Nat) (vs : List Byte) (b : Nat) :
    Memory.read (Memory.write m a vs) b =
      if a ≤ b ∧ b < a + vs.length then vs.getD (b - a) Memory.unlisted else Memory.read m b :=
  Sparse.get_setRange _ m a vs b

theorem Memory.read_write_outside (m : Memory) (a : Nat) (vs : List Byte) (b : Nat)
    (h : b < a ∨ a + vs.length ≤ b) : Memory.read (Memory.write m a vs) b = Memory.read m b := by
  rw [Memory.read_write, if_neg]; omega

theorem Memory.read_write_inside (m : Memory) (a : Nat) (vs : List Byte) (k : Nat)
    (h : k < vs.length) : Memory.read (Memory.write m a vs) (a + k) = vs[k] := by
  rw [Memory.read_write, if_pos (by omega)]
  simp [List.getD_eq_getElem?_getD, h]

/-- Every memory write keeps the canonical form. -/
theorem Memory.wf_write (m : Memory) (a : Nat) (vs : List Byte) (h : Memory.wf m) :
    Memory.wf (Memory.write m a vs) := Sparse.wf_setRange _ m a vs h

/-- A write inside the device lists nothing outside it. -/
theorem Memory.keys_write (m : Memory) (a : Nat) (vs : List Byte) (n : Nat)
    (h : ∀ p ∈ m, p.1 < n) (hn : a + vs.length ≤ n) : ∀ p ∈ Memory.write m a vs, p.1 < n :=
  Sparse.keys_setRange _ m a vs n h hn

@[simp] theorem Memory.length_readRange (m : Memory) (a n : Nat) :
    (Memory.readRange m a n).length = n := by simp [Memory.readRange]

theorem Memory.getElem?_readRange (m : Memory) (a n k : Nat) (h : k < n) :
    (Memory.readRange m a n)[k]? = some (Memory.read m (a + k)) := by
  simp [Memory.readRange, h]

/-- Writing back what a range reads keeps every byte. -/
theorem Memory.read_write_readRange (m m' : Memory) (a b n k : Nat) (h : k < n) :
    Memory.read (Memory.write m a (Memory.readRange m' b n)) (a + k) = Memory.read m' (b + k) := by
  rw [Memory.read_write_inside _ _ _ _ (by simpa using h)]
  simp [Memory.readRange]

end Sys2Proof.Machine
end

