-- ==== Sys2Proof/Laws/State.lean ====
section
/-! SUPPORT. One lemma per field per update of the state, each true by unfolding, so that no later proof unfolds a record update. -/

namespace Sys2Proof.Machine

/-! ## `accept`: the sequencer's registers alone -/

@[simp] theorem State.accept_cfg (s : State) (op : BitVec 4) : (s.accept op).cfg = s.cfg := rfl
@[simp] theorem State.accept_mode (s : State) (op : BitVec 4) : (s.accept op).mode = s.mode := rfl
@[simp] theorem State.accept_clock (s : State) (op : BitVec 4) : (s.accept op).clock = s.clock := rfl
@[simp] theorem State.accept_fatal (s : State) (op : BitVec 4) : (s.accept op).fatal = s.fatal := rfl
@[simp] theorem State.accept_st (s : State) (op : BitVec 4) : (s.accept op).st = s.st := rfl
@[simp] theorem State.accept_pt (s : State) (op : BitVec 4) : (s.accept op).pt = s.pt := rfl
@[simp] theorem State.accept_rpt (s : State) (op : BitVec 4) : (s.accept op).rpt = s.rpt := rfl
@[simp] theorem State.accept_mem (s : State) (op : BitVec 4) : (s.accept op).mem = s.mem := rfl
@[simp] theorem State.accept_trace (s : State) (op : BitVec 4) : (s.accept op).trace = s.trace := rfl
@[simp] theorem State.accept_input (s : State) (op : BitVec 4) : (s.accept op).input = s.input := rfl
@[simp] theorem State.accept_seg (s : State) (op : BitVec 4) (i : Nat) : (s.accept op).seg i = s.seg i := rfl
@[simp] theorem State.accept_page (s : State) (op : BitVec 4) (v : Nat) : (s.accept op).page v = s.page v := rfl
@[simp] theorem State.accept_frame (s : State) (op : BitVec 4) (f : Nat) : (s.accept op).frame f = s.frame f := rfl
@[simp] theorem State.accept_byte (s : State) (op : BitVec 4) (a : Nat) : (s.accept op).byte a = s.byte a := rfl
@[simp] theorem State.accept_regionSize (s : State) (op : BitVec 4) (d : Descriptor) : (s.accept op).regionSize d = s.regionSize d := rfl

/-! ## `latchRead`: the sequencer's registers alone -/

@[simp] theorem State.latchRead_cfg (s : State) (la : LogicalAddr) (len : Word32) : (s.latchRead la len).cfg = s.cfg := rfl
@[simp] theorem State.latchRead_mode (s : State) (la : LogicalAddr) (len : Word32) : (s.latchRead la len).mode = s.mode := rfl
@[simp] theorem State.latchRead_clock (s : State) (la : LogicalAddr) (len : Word32) : (s.latchRead la len).clock = s.clock := rfl
@[simp] theorem State.latchRead_fatal (s : State) (la : LogicalAddr) (len : Word32) : (s.latchRead la len).fatal = s.fatal := rfl
@[simp] theorem State.latchRead_st (s : State) (la : LogicalAddr) (len : Word32) : (s.latchRead la len).st = s.st := rfl
@[simp] theorem State.latchRead_pt (s : State) (la : LogicalAddr) (len : Word32) : (s.latchRead la len).pt = s.pt := rfl
@[simp] theorem State.latchRead_rpt (s : State) (la : LogicalAddr) (len : Word32) : (s.latchRead la len).rpt = s.rpt := rfl
@[simp] theorem State.latchRead_mem (s : State) (la : LogicalAddr) (len : Word32) : (s.latchRead la len).mem = s.mem := rfl
@[simp] theorem State.latchRead_trace (s : State) (la : LogicalAddr) (len : Word32) : (s.latchRead la len).trace = s.trace := rfl
@[simp] theorem State.latchRead_input (s : State) (la : LogicalAddr) (len : Word32) : (s.latchRead la len).input = s.input := rfl
@[simp] theorem State.latchRead_seg (s : State) (la : LogicalAddr) (len : Word32) (i : Nat) : (s.latchRead la len).seg i = s.seg i := rfl
@[simp] theorem State.latchRead_page (s : State) (la : LogicalAddr) (len : Word32) (v : Nat) : (s.latchRead la len).page v = s.page v := rfl
@[simp] theorem State.latchRead_frame (s : State) (la : LogicalAddr) (len : Word32) (f : Nat) : (s.latchRead la len).frame f = s.frame f := rfl
@[simp] theorem State.latchRead_byte (s : State) (la : LogicalAddr) (len : Word32) (a : Nat) : (s.latchRead la len).byte a = s.byte a := rfl
@[simp] theorem State.latchRead_regionSize (s : State) (la : LogicalAddr) (len : Word32) (d : Descriptor) : (s.latchRead la len).regionSize d = s.regionSize d := rfl

/-! ## `latchLen`: the sequencer's registers alone -/

@[simp] theorem State.latchLen_cfg (s : State) (len : Word32) : (s.latchLen len).cfg = s.cfg := rfl
@[simp] theorem State.latchLen_mode (s : State) (len : Word32) : (s.latchLen len).mode = s.mode := rfl
@[simp] theorem State.latchLen_clock (s : State) (len : Word32) : (s.latchLen len).clock = s.clock := rfl
@[simp] theorem State.latchLen_fatal (s : State) (len : Word32) : (s.latchLen len).fatal = s.fatal := rfl
@[simp] theorem State.latchLen_st (s : State) (len : Word32) : (s.latchLen len).st = s.st := rfl
@[simp] theorem State.latchLen_pt (s : State) (len : Word32) : (s.latchLen len).pt = s.pt := rfl
@[simp] theorem State.latchLen_rpt (s : State) (len : Word32) : (s.latchLen len).rpt = s.rpt := rfl
@[simp] theorem State.latchLen_mem (s : State) (len : Word32) : (s.latchLen len).mem = s.mem := rfl
@[simp] theorem State.latchLen_trace (s : State) (len : Word32) : (s.latchLen len).trace = s.trace := rfl
@[simp] theorem State.latchLen_input (s : State) (len : Word32) : (s.latchLen len).input = s.input := rfl
@[simp] theorem State.latchLen_seg (s : State) (len : Word32) (i : Nat) : (s.latchLen len).seg i = s.seg i := rfl
@[simp] theorem State.latchLen_page (s : State) (len : Word32) (v : Nat) : (s.latchLen len).page v = s.page v := rfl
@[simp] theorem State.latchLen_frame (s : State) (len : Word32) (f : Nat) : (s.latchLen len).frame f = s.frame f := rfl
@[simp] theorem State.latchLen_byte (s : State) (len : Word32) (a : Nat) : (s.latchLen len).byte a = s.byte a := rfl
@[simp] theorem State.latchLen_regionSize (s : State) (len : Word32) (d : Descriptor) : (s.latchLen len).regionSize d = s.regionSize d := rfl

/-! ## `latchSelector`: the sequencer's registers alone -/

@[simp] theorem State.latchSelector_cfg (s : State) (la : LogicalAddr) : (s.latchSelector la).cfg = s.cfg := rfl
@[simp] theorem State.latchSelector_mode (s : State) (la : LogicalAddr) : (s.latchSelector la).mode = s.mode := rfl
@[simp] theorem State.latchSelector_clock (s : State) (la : LogicalAddr) : (s.latchSelector la).clock = s.clock := rfl
@[simp] theorem State.latchSelector_fatal (s : State) (la : LogicalAddr) : (s.latchSelector la).fatal = s.fatal := rfl
@[simp] theorem State.latchSelector_st (s : State) (la : LogicalAddr) : (s.latchSelector la).st = s.st := rfl
@[simp] theorem State.latchSelector_pt (s : State) (la : LogicalAddr) : (s.latchSelector la).pt = s.pt := rfl
@[simp] theorem State.latchSelector_rpt (s : State) (la : LogicalAddr) : (s.latchSelector la).rpt = s.rpt := rfl
@[simp] theorem State.latchSelector_mem (s : State) (la : LogicalAddr) : (s.latchSelector la).mem = s.mem := rfl
@[simp] theorem State.latchSelector_trace (s : State) (la : LogicalAddr) : (s.latchSelector la).trace = s.trace := rfl
@[simp] theorem State.latchSelector_input (s : State) (la : LogicalAddr) : (s.latchSelector la).input = s.input := rfl
@[simp] theorem State.latchSelector_seg (s : State) (la : LogicalAddr) (i : Nat) : (s.latchSelector la).seg i = s.seg i := rfl
@[simp] theorem State.latchSelector_page (s : State) (la : LogicalAddr) (v : Nat) : (s.latchSelector la).page v = s.page v := rfl
@[simp] theorem State.latchSelector_frame (s : State) (la : LogicalAddr) (f : Nat) : (s.latchSelector la).frame f = s.frame f := rfl
@[simp] theorem State.latchSelector_byte (s : State) (la : LogicalAddr) (a : Nat) : (s.latchSelector la).byte a = s.byte a := rfl
@[simp] theorem State.latchSelector_regionSize (s : State) (la : LogicalAddr) (d : Descriptor) : (s.latchSelector la).regionSize d = s.regionSize d := rfl

/-! ## `enter`: the sequencer's registers alone -/

@[simp] theorem State.enter_cfg (s : State) (q : Fsm) : (s.enter q).cfg = s.cfg := rfl
@[simp] theorem State.enter_mode (s : State) (q : Fsm) : (s.enter q).mode = s.mode := rfl
@[simp] theorem State.enter_clock (s : State) (q : Fsm) : (s.enter q).clock = s.clock := rfl
@[simp] theorem State.enter_fatal (s : State) (q : Fsm) : (s.enter q).fatal = s.fatal := rfl
@[simp] theorem State.enter_st (s : State) (q : Fsm) : (s.enter q).st = s.st := rfl
@[simp] theorem State.enter_pt (s : State) (q : Fsm) : (s.enter q).pt = s.pt := rfl
@[simp] theorem State.enter_rpt (s : State) (q : Fsm) : (s.enter q).rpt = s.rpt := rfl
@[simp] theorem State.enter_mem (s : State) (q : Fsm) : (s.enter q).mem = s.mem := rfl
@[simp] theorem State.enter_trace (s : State) (q : Fsm) : (s.enter q).trace = s.trace := rfl
@[simp] theorem State.enter_input (s : State) (q : Fsm) : (s.enter q).input = s.input := rfl
@[simp] theorem State.enter_seg (s : State) (q : Fsm) (i : Nat) : (s.enter q).seg i = s.seg i := rfl
@[simp] theorem State.enter_page (s : State) (q : Fsm) (v : Nat) : (s.enter q).page v = s.page v := rfl
@[simp] theorem State.enter_frame (s : State) (q : Fsm) (f : Nat) : (s.enter q).frame f = s.frame f := rfl
@[simp] theorem State.enter_byte (s : State) (q : Fsm) (a : Nat) : (s.enter q).byte a = s.byte a := rfl
@[simp] theorem State.enter_regionSize (s : State) (q : Fsm) (d : Descriptor) : (s.enter q).regionSize d = s.regionSize d := rfl

/-! ## `linear`: the sequencer's registers alone -/

@[simp] theorem State.linear_cfg (s : State) (lin : Nat) (len : Word32) : (s.linear lin len).cfg = s.cfg := rfl
@[simp] theorem State.linear_mode (s : State) (lin : Nat) (len : Word32) : (s.linear lin len).mode = s.mode := rfl
@[simp] theorem State.linear_clock (s : State) (lin : Nat) (len : Word32) : (s.linear lin len).clock = s.clock := rfl
@[simp] theorem State.linear_fatal (s : State) (lin : Nat) (len : Word32) : (s.linear lin len).fatal = s.fatal := rfl
@[simp] theorem State.linear_st (s : State) (lin : Nat) (len : Word32) : (s.linear lin len).st = s.st := rfl
@[simp] theorem State.linear_pt (s : State) (lin : Nat) (len : Word32) : (s.linear lin len).pt = s.pt := rfl
@[simp] theorem State.linear_rpt (s : State) (lin : Nat) (len : Word32) : (s.linear lin len).rpt = s.rpt := rfl
@[simp] theorem State.linear_mem (s : State) (lin : Nat) (len : Word32) : (s.linear lin len).mem = s.mem := rfl
@[simp] theorem State.linear_trace (s : State) (lin : Nat) (len : Word32) : (s.linear lin len).trace = s.trace := rfl
@[simp] theorem State.linear_input (s : State) (lin : Nat) (len : Word32) : (s.linear lin len).input = s.input := rfl
@[simp] theorem State.linear_seg (s : State) (lin : Nat) (len : Word32) (i : Nat) : (s.linear lin len).seg i = s.seg i := rfl
@[simp] theorem State.linear_page (s : State) (lin : Nat) (len : Word32) (v : Nat) : (s.linear lin len).page v = s.page v := rfl
@[simp] theorem State.linear_frame (s : State) (lin : Nat) (len : Word32) (f : Nat) : (s.linear lin len).frame f = s.frame f := rfl
@[simp] theorem State.linear_byte (s : State) (lin : Nat) (len : Word32) (a : Nat) : (s.linear lin len).byte a = s.byte a := rfl
@[simp] theorem State.linear_regionSize (s : State) (lin : Nat) (len : Word32) (d : Descriptor) : (s.linear lin len).regionSize d = s.regionSize d := rfl

/-! ## `physical`: the sequencer's registers alone -/

@[simp] theorem State.physical_cfg (s : State) (phys : Nat) : (s.physical phys).cfg = s.cfg := rfl
@[simp] theorem State.physical_mode (s : State) (phys : Nat) : (s.physical phys).mode = s.mode := rfl
@[simp] theorem State.physical_clock (s : State) (phys : Nat) : (s.physical phys).clock = s.clock := rfl
@[simp] theorem State.physical_fatal (s : State) (phys : Nat) : (s.physical phys).fatal = s.fatal := rfl
@[simp] theorem State.physical_st (s : State) (phys : Nat) : (s.physical phys).st = s.st := rfl
@[simp] theorem State.physical_pt (s : State) (phys : Nat) : (s.physical phys).pt = s.pt := rfl
@[simp] theorem State.physical_rpt (s : State) (phys : Nat) : (s.physical phys).rpt = s.rpt := rfl
@[simp] theorem State.physical_mem (s : State) (phys : Nat) : (s.physical phys).mem = s.mem := rfl
@[simp] theorem State.physical_trace (s : State) (phys : Nat) : (s.physical phys).trace = s.trace := rfl
@[simp] theorem State.physical_input (s : State) (phys : Nat) : (s.physical phys).input = s.input := rfl
@[simp] theorem State.physical_seg (s : State) (phys : Nat) (i : Nat) : (s.physical phys).seg i = s.seg i := rfl
@[simp] theorem State.physical_page (s : State) (phys : Nat) (v : Nat) : (s.physical phys).page v = s.page v := rfl
@[simp] theorem State.physical_frame (s : State) (phys : Nat) (f : Nat) : (s.physical phys).frame f = s.frame f := rfl
@[simp] theorem State.physical_byte (s : State) (phys : Nat) (a : Nat) : (s.physical phys).byte a = s.byte a := rfl
@[simp] theorem State.physical_regionSize (s : State) (phys : Nat) (d : Descriptor) : (s.physical phys).regionSize d = s.regionSize d := rfl

/-! ## `setResult`: the sequencer's registers alone -/

@[simp] theorem State.setResult_cfg (s : State) (bytes : List Byte) : (s.setResult bytes).cfg = s.cfg := rfl
@[simp] theorem State.setResult_mode (s : State) (bytes : List Byte) : (s.setResult bytes).mode = s.mode := rfl
@[simp] theorem State.setResult_clock (s : State) (bytes : List Byte) : (s.setResult bytes).clock = s.clock := rfl
@[simp] theorem State.setResult_fatal (s : State) (bytes : List Byte) : (s.setResult bytes).fatal = s.fatal := rfl
@[simp] theorem State.setResult_st (s : State) (bytes : List Byte) : (s.setResult bytes).st = s.st := rfl
@[simp] theorem State.setResult_pt (s : State) (bytes : List Byte) : (s.setResult bytes).pt = s.pt := rfl
@[simp] theorem State.setResult_rpt (s : State) (bytes : List Byte) : (s.setResult bytes).rpt = s.rpt := rfl
@[simp] theorem State.setResult_mem (s : State) (bytes : List Byte) : (s.setResult bytes).mem = s.mem := rfl
@[simp] theorem State.setResult_trace (s : State) (bytes : List Byte) : (s.setResult bytes).trace = s.trace := rfl
@[simp] theorem State.setResult_input (s : State) (bytes : List Byte) : (s.setResult bytes).input = s.input := rfl
@[simp] theorem State.setResult_seg (s : State) (bytes : List Byte) (i : Nat) : (s.setResult bytes).seg i = s.seg i := rfl
@[simp] theorem State.setResult_page (s : State) (bytes : List Byte) (v : Nat) : (s.setResult bytes).page v = s.page v := rfl
@[simp] theorem State.setResult_frame (s : State) (bytes : List Byte) (f : Nat) : (s.setResult bytes).frame f = s.frame f := rfl
@[simp] theorem State.setResult_byte (s : State) (bytes : List Byte) (a : Nat) : (s.setResult bytes).byte a = s.byte a := rfl
@[simp] theorem State.setResult_regionSize (s : State) (bytes : List Byte) (d : Descriptor) : (s.setResult bytes).regionSize d = s.regionSize d := rfl

/-! ## `advance`: the sequencer's registers alone -/

@[simp] theorem State.advance_cfg (s : State) (lin remain : Nat) : (s.advance lin remain).cfg = s.cfg := rfl
@[simp] theorem State.advance_mode (s : State) (lin remain : Nat) : (s.advance lin remain).mode = s.mode := rfl
@[simp] theorem State.advance_clock (s : State) (lin remain : Nat) : (s.advance lin remain).clock = s.clock := rfl
@[simp] theorem State.advance_fatal (s : State) (lin remain : Nat) : (s.advance lin remain).fatal = s.fatal := rfl
@[simp] theorem State.advance_st (s : State) (lin remain : Nat) : (s.advance lin remain).st = s.st := rfl
@[simp] theorem State.advance_pt (s : State) (lin remain : Nat) : (s.advance lin remain).pt = s.pt := rfl
@[simp] theorem State.advance_rpt (s : State) (lin remain : Nat) : (s.advance lin remain).rpt = s.rpt := rfl
@[simp] theorem State.advance_mem (s : State) (lin remain : Nat) : (s.advance lin remain).mem = s.mem := rfl
@[simp] theorem State.advance_trace (s : State) (lin remain : Nat) : (s.advance lin remain).trace = s.trace := rfl
@[simp] theorem State.advance_input (s : State) (lin remain : Nat) : (s.advance lin remain).input = s.input := rfl
@[simp] theorem State.advance_seg (s : State) (lin remain : Nat) (i : Nat) : (s.advance lin remain).seg i = s.seg i := rfl
@[simp] theorem State.advance_page (s : State) (lin remain : Nat) (v : Nat) : (s.advance lin remain).page v = s.page v := rfl
@[simp] theorem State.advance_frame (s : State) (lin remain : Nat) (f : Nat) : (s.advance lin remain).frame f = s.frame f := rfl
@[simp] theorem State.advance_byte (s : State) (lin remain : Nat) (a : Nat) : (s.advance lin remain).byte a = s.byte a := rfl
@[simp] theorem State.advance_regionSize (s : State) (lin remain : Nat) (d : Descriptor) : (s.advance lin remain).regionSize d = s.regionSize d := rfl

/-! ## `respond`: the sequencer's registers alone -/

@[simp] theorem State.respond_cfg (s : State) (k : Status) : (s.respond k).cfg = s.cfg := rfl
@[simp] theorem State.respond_mode (s : State) (k : Status) : (s.respond k).mode = s.mode := rfl
@[simp] theorem State.respond_clock (s : State) (k : Status) : (s.respond k).clock = s.clock := rfl
@[simp] theorem State.respond_fatal (s : State) (k : Status) : (s.respond k).fatal = s.fatal := rfl
@[simp] theorem State.respond_st (s : State) (k : Status) : (s.respond k).st = s.st := rfl
@[simp] theorem State.respond_pt (s : State) (k : Status) : (s.respond k).pt = s.pt := rfl
@[simp] theorem State.respond_rpt (s : State) (k : Status) : (s.respond k).rpt = s.rpt := rfl
@[simp] theorem State.respond_mem (s : State) (k : Status) : (s.respond k).mem = s.mem := rfl
@[simp] theorem State.respond_trace (s : State) (k : Status) : (s.respond k).trace = s.trace := rfl
@[simp] theorem State.respond_input (s : State) (k : Status) : (s.respond k).input = s.input := rfl
@[simp] theorem State.respond_seg (s : State) (k : Status) (i : Nat) : (s.respond k).seg i = s.seg i := rfl
@[simp] theorem State.respond_page (s : State) (k : Status) (v : Nat) : (s.respond k).page v = s.page v := rfl
@[simp] theorem State.respond_frame (s : State) (k : Status) (f : Nat) : (s.respond k).frame f = s.frame f := rfl
@[simp] theorem State.respond_byte (s : State) (k : Status) (a : Nat) : (s.respond k).byte a = s.byte a := rfl
@[simp] theorem State.respond_regionSize (s : State) (k : Status) (d : Descriptor) : (s.respond k).regionSize d = s.regionSize d := rfl

/-! ## `setSeg`: one entry of one table -/

@[simp] theorem State.setSeg_cfg (s : State) (j : Nat) (d : Descriptor) : (s.setSeg j d).cfg = s.cfg := rfl
@[simp] theorem State.setSeg_mode (s : State) (j : Nat) (d : Descriptor) : (s.setSeg j d).mode = s.mode := rfl
@[simp] theorem State.setSeg_clock (s : State) (j : Nat) (d : Descriptor) : (s.setSeg j d).clock = s.clock := rfl
@[simp] theorem State.setSeg_fatal (s : State) (j : Nat) (d : Descriptor) : (s.setSeg j d).fatal = s.fatal := rfl
@[simp] theorem State.setSeg_st (s : State) (j : Nat) (d : Descriptor) : (s.setSeg j d).st = Sparse.set Descriptor.empty s.st j d := rfl
@[simp] theorem State.setSeg_pt (s : State) (j : Nat) (d : Descriptor) : (s.setSeg j d).pt = s.pt := rfl
@[simp] theorem State.setSeg_rpt (s : State) (j : Nat) (d : Descriptor) : (s.setSeg j d).rpt = s.rpt := rfl
@[simp] theorem State.setSeg_mem (s : State) (j : Nat) (d : Descriptor) : (s.setSeg j d).mem = s.mem := rfl
@[simp] theorem State.setSeg_seq (s : State) (j : Nat) (d : Descriptor) : (s.setSeg j d).seq = s.seq := rfl
@[simp] theorem State.setSeg_trace (s : State) (j : Nat) (d : Descriptor) : (s.setSeg j d).trace = s.trace := rfl
@[simp] theorem State.setSeg_input (s : State) (j : Nat) (d : Descriptor) : (s.setSeg j d).input = s.input := rfl
theorem State.setSeg_seg (s : State) (j : Nat) (d : Descriptor) (i : Nat) :
    (s.setSeg j d).seg i = if i = j then d else s.seg i := Sparse.get_set _ _ _ _ _
@[simp] theorem State.setSeg_seg_same (s : State) (j : Nat) (d : Descriptor) : (s.setSeg j d).seg j = d := Sparse.get_set_same _ _ _ _
theorem State.setSeg_seg_other (s : State) (j : Nat) (d : Descriptor) (i : Nat) (h : i ≠ j) :
    (s.setSeg j d).seg i = s.seg i := Sparse.get_set_other _ _ _ _ _ h
@[simp] theorem State.setSeg_page (s : State) (j : Nat) (d : Descriptor) (v : Nat) : (s.setSeg j d).page v = s.page v := rfl
@[simp] theorem State.setSeg_frame (s : State) (j : Nat) (d : Descriptor) (f : Nat) : (s.setSeg j d).frame f = s.frame f := rfl
@[simp] theorem State.setSeg_byte (s : State) (j : Nat) (d : Descriptor) (a : Nat) : (s.setSeg j d).byte a = s.byte a := rfl
@[simp] theorem State.setSeg_regionSize (s : State) (j : Nat) (d : Descriptor) (d' : Descriptor) : (s.setSeg j d).regionSize d' = s.regionSize d' := rfl

/-! ## `setPage`: one entry of one table -/

@[simp] theorem State.setPage_cfg (s : State) (w : Nat) (e : PageEntry) : (s.setPage w e).cfg = s.cfg := rfl
@[simp] theorem State.setPage_mode (s : State) (w : Nat) (e : PageEntry) : (s.setPage w e).mode = s.mode := rfl
@[simp] theorem State.setPage_clock (s : State) (w : Nat) (e : PageEntry) : (s.setPage w e).clock = s.clock := rfl
@[simp] theorem State.setPage_fatal (s : State) (w : Nat) (e : PageEntry) : (s.setPage w e).fatal = s.fatal := rfl
@[simp] theorem State.setPage_st (s : State) (w : Nat) (e : PageEntry) : (s.setPage w e).st = s.st := rfl
@[simp] theorem State.setPage_pt (s : State) (w : Nat) (e : PageEntry) : (s.setPage w e).pt = Sparse.set PageEntry.empty s.pt w e := rfl
@[simp] theorem State.setPage_rpt (s : State) (w : Nat) (e : PageEntry) : (s.setPage w e).rpt = s.rpt := rfl
@[simp] theorem State.setPage_mem (s : State) (w : Nat) (e : PageEntry) : (s.setPage w e).mem = s.mem := rfl
@[simp] theorem State.setPage_seq (s : State) (w : Nat) (e : PageEntry) : (s.setPage w e).seq = s.seq := rfl
@[simp] theorem State.setPage_trace (s : State) (w : Nat) (e : PageEntry) : (s.setPage w e).trace = s.trace := rfl
@[simp] theorem State.setPage_input (s : State) (w : Nat) (e : PageEntry) : (s.setPage w e).input = s.input := rfl
@[simp] theorem State.setPage_seg (s : State) (w : Nat) (e : PageEntry) (i : Nat) : (s.setPage w e).seg i = s.seg i := rfl
theorem State.setPage_page (s : State) (w : Nat) (e : PageEntry) (v : Nat) :
    (s.setPage w e).page v = if v = w then e else s.page v := Sparse.get_set _ _ _ _ _
@[simp] theorem State.setPage_page_same (s : State) (w : Nat) (e : PageEntry) : (s.setPage w e).page w = e := Sparse.get_set_same _ _ _ _
theorem State.setPage_page_other (s : State) (w : Nat) (e : PageEntry) (v : Nat) (h : v ≠ w) :
    (s.setPage w e).page v = s.page v := Sparse.get_set_other _ _ _ _ _ h
@[simp] theorem State.setPage_frame (s : State) (w : Nat) (e : PageEntry) (f : Nat) : (s.setPage w e).frame f = s.frame f := rfl
@[simp] theorem State.setPage_byte (s : State) (w : Nat) (e : PageEntry) (a : Nat) : (s.setPage w e).byte a = s.byte a := rfl
@[simp] theorem State.setPage_regionSize (s : State) (w : Nat) (e : PageEntry) (d' : Descriptor) : (s.setPage w e).regionSize d' = s.regionSize d' := rfl

/-! ## `setFrame`: one entry of one table -/

@[simp] theorem State.setFrame_cfg (s : State) (g : Nat) (e : FrameEntry) : (s.setFrame g e).cfg = s.cfg := rfl
@[simp] theorem State.setFrame_mode (s : State) (g : Nat) (e : FrameEntry) : (s.setFrame g e).mode = s.mode := rfl
@[simp] theorem State.setFrame_clock (s : State) (g : Nat) (e : FrameEntry) : (s.setFrame g e).clock = s.clock := rfl
@[simp] theorem State.setFrame_fatal (s : State) (g : Nat) (e : FrameEntry) : (s.setFrame g e).fatal = s.fatal := rfl
@[simp] theorem State.setFrame_st (s : State) (g : Nat) (e : FrameEntry) : (s.setFrame g e).st = s.st := rfl
@[simp] theorem State.setFrame_pt (s : State) (g : Nat) (e : FrameEntry) : (s.setFrame g e).pt = s.pt := rfl
@[simp] theorem State.setFrame_rpt (s : State) (g : Nat) (e : FrameEntry) : (s.setFrame g e).rpt = Sparse.set FrameEntry.empty s.rpt g e := rfl
@[simp] theorem State.setFrame_mem (s : State) (g : Nat) (e : FrameEntry) : (s.setFrame g e).mem = s.mem := rfl
@[simp] theorem State.setFrame_seq (s : State) (g : Nat) (e : FrameEntry) : (s.setFrame g e).seq = s.seq := rfl
@[simp] theorem State.setFrame_trace (s : State) (g : Nat) (e : FrameEntry) : (s.setFrame g e).trace = s.trace := rfl
@[simp] theorem State.setFrame_input (s : State) (g : Nat) (e : FrameEntry) : (s.setFrame g e).input = s.input := rfl
@[simp] theorem State.setFrame_seg (s : State) (g : Nat) (e : FrameEntry) (i : Nat) : (s.setFrame g e).seg i = s.seg i := rfl
@[simp] theorem State.setFrame_page (s : State) (g : Nat) (e : FrameEntry) (v : Nat) : (s.setFrame g e).page v = s.page v := rfl
theorem State.setFrame_frame (s : State) (g : Nat) (e : FrameEntry) (f : Nat) :
    (s.setFrame g e).frame f = if f = g then e else s.frame f := Sparse.get_set _ _ _ _ _
@[simp] theorem State.setFrame_frame_same (s : State) (g : Nat) (e : FrameEntry) : (s.setFrame g e).frame g = e := Sparse.get_set_same _ _ _ _
theorem State.setFrame_frame_other (s : State) (g : Nat) (e : FrameEntry) (f : Nat) (h : f ≠ g) :
    (s.setFrame g e).frame f = s.frame f := Sparse.get_set_other _ _ _ _ _ h
@[simp] theorem State.setFrame_byte (s : State) (g : Nat) (e : FrameEntry) (a : Nat) : (s.setFrame g e).byte a = s.byte a := rfl
@[simp] theorem State.setFrame_regionSize (s : State) (g : Nat) (e : FrameEntry) (d' : Descriptor) : (s.setFrame g e).regionSize d' = s.regionSize d' := rfl

/-! ## `emit`: the trace alone -/

@[simp] theorem State.emit_cfg (s : State) (e : Event) : (s.emit e).cfg = s.cfg := rfl
@[simp] theorem State.emit_mode (s : State) (e : Event) : (s.emit e).mode = s.mode := rfl
@[simp] theorem State.emit_clock (s : State) (e : Event) : (s.emit e).clock = s.clock := rfl
@[simp] theorem State.emit_fatal (s : State) (e : Event) : (s.emit e).fatal = s.fatal := rfl
@[simp] theorem State.emit_st (s : State) (e : Event) : (s.emit e).st = s.st := rfl
@[simp] theorem State.emit_pt (s : State) (e : Event) : (s.emit e).pt = s.pt := rfl
@[simp] theorem State.emit_rpt (s : State) (e : Event) : (s.emit e).rpt = s.rpt := rfl
@[simp] theorem State.emit_mem (s : State) (e : Event) : (s.emit e).mem = s.mem := rfl
@[simp] theorem State.emit_seq (s : State) (e : Event) : (s.emit e).seq = s.seq := rfl
@[simp] theorem State.emit_trace (s : State) (e : Event) : (s.emit e).trace = s.trace ++ [e] := rfl
@[simp] theorem State.emit_input (s : State) (e : Event) : (s.emit e).input = s.input := rfl
@[simp] theorem State.emit_seg (s : State) (e : Event) (i : Nat) : (s.emit e).seg i = s.seg i := rfl
@[simp] theorem State.emit_page (s : State) (e : Event) (v : Nat) : (s.emit e).page v = s.page v := rfl
@[simp] theorem State.emit_frame (s : State) (e : Event) (f : Nat) : (s.emit e).frame f = s.frame f := rfl
@[simp] theorem State.emit_byte (s : State) (e : Event) (a : Nat) : (s.emit e).byte a = s.byte a := rfl

/-! ## The sequencer's registers after an update -/

@[simp] theorem State.accept_reqOp (s : State) (op : BitVec 4) : (s.accept op).seq.reqOp = op := rfl
@[simp] theorem State.accept_fsm (s : State) (op : BitVec 4) : (s.accept op).seq.fsm = .decode := rfl
@[simp] theorem State.accept_path (s : State) (op : BitVec 4) : (s.accept op).seq.path = [.decode] := rfl
@[simp] theorem State.enter_fsm (s : State) (q : Fsm) : (s.enter q).seq.fsm = q := rfl
@[simp] theorem State.enter_path (s : State) (q : Fsm) : (s.enter q).seq.path = s.seq.path ++ [q] := rfl
@[simp] theorem State.respond_status (s : State) (k : Status) : (s.respond k).seq.status = k := rfl
@[simp] theorem State.respond_fsm (s : State) (k : Status) : (s.respond k).seq.fsm = .idle := rfl
@[simp] theorem State.respond_path (s : State) (k : Status) : (s.respond k).seq.path = s.seq.path ++ [.done] := rfl
@[simp] theorem State.respond_result (s : State) (k : Status) : (s.respond k).seq.result = s.seq.result := rfl
@[simp] theorem State.respond_reqOp (s : State) (k : Status) : (s.respond k).seq.reqOp = s.seq.reqOp := rfl
@[simp] theorem State.setResult_result (s : State) (bytes : List Byte) : (s.setResult bytes).seq.result = bytes := rfl

/-! ## The state after reset -/

@[simp] theorem State.init_cfg (c : Config) : (State.init c).cfg = c := rfl
@[simp] theorem State.init_mem (c : Config) : (State.init c).mem = c.memInit := rfl
@[simp] theorem State.init_seg (c : Config) (i : Nat) : (State.init c).seg i = Descriptor.empty := rfl
@[simp] theorem State.init_page (c : Config) (v : Nat) : (State.init c).page v = PageEntry.empty := rfl
@[simp] theorem State.init_frame (c : Config) (f : Nat) : (State.init c).frame f = FrameEntry.empty := rfl

end Sys2Proof.Machine
end

