-- ==== Sys2Proof/Laws/Ops.lean ====
section
/-! SUPPORT. For each shared operation, what it does, said once: when it completes, with what value and in what state; when it raises an error; when it stops. -/

namespace Sys2Proof.Machine

/-! ## Sequencing -/

@[simp] theorem Res.bind_ok {α β : Type} (a : α) (s : State) (g : α → State → Res β) :
    (Res.ok a s).bind g = g a s := rfl

@[simp] theorem Res.bind_raised {α β : Type} (k : Status) (s : State) (g : α → State → Res β) :
    (Res.raised k s : Res α).bind g = .raised k s := rfl

@[simp] theorem Res.bind_stop {α β : Type} (f : Fault) (g : α → State → Res β) :
    (Res.stop f : Res α).bind g = .stop f := rfl

@[simp] theorem Res.bind_exhausted {α β : Type} (g : α → State → Res β) :
    (Res.exhausted : Res α).bind g = .exhausted := rfl

/-- A sequence completes exactly when both parts do. -/
theorem Res.bind_eq_ok {α β : Type} (r : Res α) (g : α → State → Res β) (b : β) (t : State) :
    r.bind g = .ok b t ↔ ∃ a s, r = .ok a s ∧ g a s = .ok b t := by
  cases r <;> simp

/-- A sequence raises an error exactly when its first part does, or completes and the second part does. -/
theorem Res.bind_eq_raised {α β : Type} (r : Res α) (g : α → State → Res β) (k : Status)
    (t : State) : r.bind g = .raised k t ↔
      r = .raised k t ∨ ∃ a s, r = .ok a s ∧ g a s = .raised k t := by
  cases r <;> simp

/-- A sequence runs CLOCK out exactly when its first part does, or completes and the second part does. -/
theorem Res.bind_eq_exhausted {α β : Type} (r : Res α) (g : α → State → Res β) :
    r.bind g = .exhausted ↔ r = .exhausted ∨ ∃ a s, r = .ok a s ∧ g a s = .exhausted := by
  cases r <;> simp

/-- A sequence stops exactly when its first part does, or completes and the second part does. -/
theorem Res.bind_eq_stop {α β : Type} (r : Res α) (g : α → State → Res β) (f : Fault) :
    r.bind g = .stop f ↔ r = .stop f ∨ ∃ a s, r = .ok a s ∧ g a s = .stop f := by
  cases r <;> simp

/-! ## The end of a command, and error entry (R121, R132, R253) -/

/-- A refused command changes FATAL and the sequencer's registers alone (R31, 93 U9). -/
theorem refuseWrap_frame (s : State) :
    refuseWrap s = { s with seq := (refuseWrap s).seq, fatal := true } := rfl

@[simp] theorem refuseWrap_cfg (s : State) : (refuseWrap s).cfg = s.cfg := rfl
@[simp] theorem refuseWrap_mode (s : State) : (refuseWrap s).mode = s.mode := rfl
@[simp] theorem refuseWrap_clock (s : State) : (refuseWrap s).clock = s.clock := rfl
@[simp] theorem refuseWrap_st (s : State) : (refuseWrap s).st = s.st := rfl
@[simp] theorem refuseWrap_pt (s : State) : (refuseWrap s).pt = s.pt := rfl
@[simp] theorem refuseWrap_rpt (s : State) : (refuseWrap s).rpt = s.rpt := rfl
@[simp] theorem refuseWrap_mem (s : State) : (refuseWrap s).mem = s.mem := rfl
@[simp] theorem refuseWrap_trace (s : State) : (refuseWrap s).trace = s.trace := rfl
@[simp] theorem refuseWrap_input (s : State) : (refuseWrap s).input = s.input := rfl
@[simp] theorem refuseWrap_fatal (s : State) : (refuseWrap s).fatal = true := rfl
@[simp] theorem refuseWrap_fsm (s : State) : (refuseWrap s).seq.fsm = .idle := rfl
@[simp] theorem refuseWrap_status (s : State) :
    (refuseWrap s).seq.status = .internalConsistency := rfl

/-- A command answers a next state exactly when its work completes, raises an error or runs CLOCK out; the state is the work's own in the first two cases and the entry state with FATAL set in the third, with STATUS written and the sequencer back in IDLE. -/
theorem Res.finish_eq_next (entry : State) (r : Res Unit) (t : State) :
    r.finish entry = .next t ↔
      (∃ s, r = .ok () s ∧ t = s.respond .ok) ∨ (∃ k s, r = .raised k s ∧ t = s.respond k) ∨
      r = .exhausted ∧ t = refuseWrap entry := by
  cases r with
  | ok a s => simp [Res.finish, eq_comm]
  | raised k s => simp [Res.finish, eq_comm]
  | exhausted => simp [Res.finish, eq_comm]
  | stop f => simp [Res.finish]

/-- A command is never refused by its meaning. -/
theorem Res.finish_ne_refused (entry : State) (r : Res Unit) (e : Refusal) :
    r.finish entry ≠ .refused e := by
  cases r <;> simp [Res.finish]

/-- Under `FATAL` a command ends with `InternalConsistency` and does none of its work (R26). -/
theorem runCommand_fatal (op : BitVec 4) (latch : State → State) (work : State → Res Unit)
    (s : State) (h : (latch (s.accept op)).fatal = true) :
    runCommand op latch work s = .next ((latch (s.accept op)).respond .internalConsistency) := by
  simp [runCommand, fatalGate, h, Res.finish]

/-- Without `FATAL` a command does its work (R26). -/
theorem runCommand_work (op : BitVec 4) (latch : State → State) (work : State → Res Unit)
    (s : State) (h : (latch (s.accept op)).fatal = false) :
    runCommand op latch work s =
      (work (latch (s.accept op))).finish (latch (s.accept op)) := by
  simp [runCommand, fatalGate, h]

/-- Work that runs CLOCK out makes the command be refused whole (R31, 93 U9). -/
theorem runCommand_exhausted (op : BitVec 4) (latch : State → State) (work : State → Res Unit)
    (s : State) (h : (latch (s.accept op)).fatal = false)
    (hw : work (latch (s.accept op)) = .exhausted) :
    runCommand op latch work s = .next (refuseWrap (latch (s.accept op))) := by
  rw [runCommand_work _ _ _ _ h, hw, Res.finish]

/-! ## Access primitives (R63, R64, R66) -/

/-- `MemRead` completes exactly inside ResidentMemory; it changes nothing (R63). -/
theorem memRead_eq_ok (addr n : Nat) (s t : State) (v : List Byte) :
    memRead addr n s = .ok v t ↔
      addr + n ≤ s.cfg.memSize ∧ v = Memory.readRange s.mem addr n ∧ t = s := by
  unfold memRead
  split
  · simp only [reduceCtorEq, false_iff]; omega
  · simp only [Res.ok.injEq]
    constructor
    · rintro ⟨rfl, rfl⟩; exact ⟨by omega, rfl, rfl⟩
    · rintro ⟨_, rfl, rfl⟩; exact ⟨rfl, rfl⟩

/-- `MemWrite` completes exactly inside ResidentMemory; it writes the bytes and sends one notice, or does nothing for no bytes (R64). -/
theorem memWrite_eq_ok (addr : Nat) (v : List Byte) (s t : State) (e : Unit) :
    memWrite addr v s = .ok e t ↔ addr + v.length ≤ s.cfg.memSize ∧
      t = if v = [] then s
        else ({ s with mem := Memory.write s.mem addr v }).emit
          (.notice (toReg32 addr) (toReg32 v.length)) := by
  unfold memWrite
  by_cases h : s.cfg.memSize < addr + v.length
  · rw [if_pos h]; simp only [reduceCtorEq, false_iff]; omega
  · rw [if_neg h]
    split
    · simp only [Res.ok.injEq]
      constructor
      · rintro ⟨_, rfl⟩; exact ⟨by omega, rfl⟩
      · rintro ⟨_, rfl⟩; exact ⟨trivial, rfl⟩
    · simp only [Res.ok.injEq]
      constructor
      · rintro ⟨_, rfl⟩; exact ⟨by omega, rfl⟩
      · rintro ⟨_, rfl⟩; exact ⟨trivial, rfl⟩

/-- `DiskRead` completes exactly inside the backing store; it appends one event and changes nothing else (R66). -/
theorem diskRead_eq_ok (off n : Nat) (s t : State) (v : List Byte) :
    diskRead off n s = .ok v t ↔ off + n ≤ s.cfg.diskSize ∧
      v = Memory.readRange s.cfg.disk off n ∧ t = s.emit (.bsRead (toReg32 off) (toReg32 n)) := by
  unfold diskRead
  split
  · simp only [reduceCtorEq, false_iff]; omega
  · simp only [Res.ok.injEq]
    constructor
    · rintro ⟨rfl, rfl⟩; exact ⟨by omega, rfl, rfl⟩
    · rintro ⟨_, rfl, rfl⟩; exact ⟨rfl, rfl⟩

/-- The access primitives raise no error. -/
theorem memRead_ne_raised (addr n : Nat) (s t : State) (k : Status) :
    memRead addr n s ≠ .raised k t := by unfold memRead; split <;> simp

theorem memWrite_ne_raised (addr : Nat) (v : List Byte) (s t : State) (k : Status) :
    memWrite addr v s ≠ .raised k t := by unfold memWrite; split <;> [simp; split <;> simp]

theorem diskRead_ne_raised (off n : Nat) (s t : State) (k : Status) :
    diskRead off n s ≠ .raised k t := by unfold diskRead; split <;> simp

/-! ## Stamps (R31) -/

/-- `Stamp()` completes exactly while CLOCK has not run out; CLOCK moves on by one (R31). -/
theorem stamp_eq_ok (s t : State) (n : Stamp) : stamp s = .ok n t ↔
    s.clock ≠ BitVec.allOnes 64 ∧ n = s.clock + 1 ∧ t = { s with clock := s.clock + 1 } := by
  unfold stamp
  split
  · simp_all
  · simp_all [eq_comm]

/-- `Stamp()` asks for the command to be refused exactly at the end of CLOCK (93 U9). -/
theorem stamp_eq_exhausted (s : State) : stamp s = .exhausted ↔ s.clock = BitVec.allOnes 64 := by
  unfold stamp; split <;> simp_all

theorem stamp_ne_raised (s t : State) (k : Status) : stamp s ≠ .raised k t := by
  unfold stamp; split <;> simp

theorem stamp_ne_stop (s : State) (f : Fault) : stamp s ≠ .stop f := by
  unfold stamp; split <;> simp

/-- A stamp that does not run out is one more than CLOCK as a number (R31). -/
theorem clock_succ (c : Stamp) (h : c ≠ BitVec.allOnes 64) : (c + 1).toNat = c.toNat + 1 := by
  have : c.toNat ≠ 2 ^ 64 - 1 := fun hc => h (by apply BitVec.eq_of_toNat_eq; simp [hc])
  have := c.isLt
  rw [BitVec.toNat_add]
  have h1 : (1 : BitVec 64).toNat = 1 := rfl
  omega

theorem stampSegment_eq_ok (i : Nat) (s t : State) (e : Unit) : stampSegment i s = .ok e t ↔
    s.clock ≠ BitVec.allOnes 64 ∧
      t = ({ s with clock := s.clock + 1 }).setSeg i { s.seg i with ts := s.clock + 1 } := by
  unfold stampSegment
  rw [Res.bind_eq_ok]
  simp only [stamp_eq_ok, Res.ok.injEq, true_and]
  constructor
  · rintro ⟨a, s', ⟨h, rfl, rfl⟩, rfl⟩; exact ⟨h, rfl⟩
  · rintro ⟨h, rfl⟩; exact ⟨_, _, ⟨h, rfl, rfl⟩, rfl⟩

theorem stampSegment_eq_exhausted (i : Nat) (s : State) :
    stampSegment i s = .exhausted ↔ s.clock = BitVec.allOnes 64 := by
  unfold stampSegment
  rw [Res.bind_eq_exhausted]
  simp [stamp_eq_exhausted]

theorem stampSegment_ne_raised (i : Nat) (s t : State) (k : Status) :
    stampSegment i s ≠ .raised k t := by
  unfold stampSegment
  rw [Ne, Res.bind_eq_raised]
  simp [stamp_ne_raised]

theorem stampFrame_eq_ok (f : Nat) (s t : State) (e : Unit) : stampFrame f s = .ok e t ↔
    s.clock ≠ BitVec.allOnes 64 ∧
      t = ({ s with clock := s.clock + 1 }).setFrame f { s.frame f with ts := s.clock + 1 } := by
  unfold stampFrame
  rw [Res.bind_eq_ok]
  simp only [stamp_eq_ok, Res.ok.injEq, true_and]
  constructor
  · rintro ⟨a, s', ⟨h, rfl, rfl⟩, rfl⟩; exact ⟨h, rfl⟩
  · rintro ⟨h, rfl⟩; exact ⟨_, _, ⟨h, rfl, rfl⟩, rfl⟩

theorem stampFrame_eq_exhausted (f : Nat) (s : State) :
    stampFrame f s = .exhausted ↔ s.clock = BitVec.allOnes 64 := by
  unfold stampFrame
  rw [Res.bind_eq_exhausted]
  simp [stamp_eq_exhausted]

theorem stampFrame_ne_raised (f : Nat) (s t : State) (k : Status) :
    stampFrame f s ≠ .raised k t := by
  unfold stampFrame
  rw [Ne, Res.bind_eq_raised]
  simp [stamp_ne_raised]

/-! ## Registers -/

theorem toReg32_of_lt (n : Nat) (h : n < 2 ^ 32) : (toReg32 n).toNat = n := by
  rw [toReg32, if_pos h, BitVec.toNat_ofNat]
  omega

/-- A 32-bit number is carried as it is. -/
@[simp] theorem toReg32_toNat (x : Word32) : toReg32 x.toNat = x := by
  apply BitVec.eq_of_toNat_eq
  rw [toReg32_of_lt _ x.isLt]

/-- A 31-bit number is carried as it is. -/
@[simp] theorem toReg32_limit (x : BitVec 31) : toReg32 x.toNat = x.setWidth 32 := by
  apply BitVec.eq_of_toNat_eq
  have := x.isLt
  rw [toReg32_of_lt _ (by omega), BitVec.toNat_setWidth]
  omega

/-- The latched address keeps the selector and the offset and no reserved bit (R93). -/
theorem withoutReserved_eq (la la' : LogicalAddr) :
    withoutReserved la = withoutReserved la' ↔ selOf la = selOf la' ∧ offOf la = offOf la' := by
  constructor
  · intro h
    have bit : ∀ k, (withoutReserved la).getLsbD k = (withoutReserved la').getLsbD k :=
      fun k => by rw [h]
    constructor
    · apply BitVec.eq_of_getLsbD_eq
      intro k hk
      have := bit (k + 35)
      simpa [withoutReserved, hk, show k + 35 < 48 by omega,
        show ¬ k + 35 < 35 by omega] using this
    · apply BitVec.eq_of_getLsbD_eq
      intro k hk
      have := bit k
      simpa [withoutReserved, hk, show k < 48 by omega, show k < 35 by omega] using this
  · rintro ⟨h1, h2⟩; simp [withoutReserved, h1, h2]

/-! ## The segment table (R161 to R171) -/

@[simp] theorem invalidate_seg_same (i : Nat) (s : State) :
    (invalidate i s).seg i = { s.seg i with valid := false } := by simp [invalidate]

theorem invalidate_seg_other (i j : Nat) (s : State) (h : j ≠ i) :
    (invalidate i s).seg j = s.seg j := by simp [invalidate, State.setSeg_seg_other _ _ _ _ h]

/-- Eviction writes the segment table alone (R171). -/
theorem invalidate_frame (i : Nat) (s : State) :
    invalidate i s = { s with st := (invalidate i s).st } := rfl

/-- The eviction loop writes the segment table alone (R171). -/
theorem evictUntil_frame (size : Nat) (l : List Nat) (s : State) :
    evictUntil size l s = { s with st := (evictUntil size l s).st } := by
  induction l generalizing s with
  | nil => rfl
  | cons i rest ih =>
    simp only [evictUntil]
    split
    · rfl
    · rw [ih]; rfl

/-- The eviction loop changes nothing of a descriptor but its valid flag, and sets none (R171). -/
theorem evictUntil_seg (size : Nat) (l : List Nat) (s : State) (j : Nat) :
    (evictUntil size l s).seg j = s.seg j ∨
      (evictUntil size l s).seg j = { s.seg j with valid := false } := by
  induction l generalizing s with
  | nil => exact .inl rfl
  | cons i rest ih =>
    have step : (invalidate i s).seg j = s.seg j ∨
        (invalidate i s).seg j = { s.seg j with valid := false } := by
      by_cases h : j = i
      · subst h; exact .inr (invalidate_seg_same j s)
      · exact .inl (invalidate_seg_other i j s h)
    simp only [evictUntil]
    split
    · exact step
    · rcases ih (invalidate i s) with h | h <;> rcases step with h' | h' <;> simp [h, h']

/-- What sliding one descriptor does when it completes (R163): nothing where it is in place; else its base is `cur`, and outside paged mode its bytes are copied there with one notice. -/
theorem slideTo_eq_ok (i cur : Nat) (s t : State) (e : Unit) : slideTo i cur s = .ok e t ↔
    let d := s.seg i
    let r := s.regionSize d
    (d.base.toNat = cur ∧ t = s) ∨
    (d.base.toNat ≠ cur ∧ ¬ (s.mode.pag = false ∧ 0 < r) ∧
      t = s.setSeg i { d with base := toReg32 cur }) ∨
    (d.base.toNat ≠ cur ∧ (s.mode.pag = false ∧ 0 < r) ∧ d.base.toNat + r ≤ s.cfg.memSize ∧
      cur + r ≤ s.cfg.memSize ∧
      t = (({ s with mem := Memory.write s.mem cur (Memory.readRange s.mem d.base.toNat r) }).emit
        (.notice (toReg32 cur) (toReg32 r))).setSeg i { d with base := toReg32 cur }) := by
  simp only [slideTo]
  by_cases h1 : (s.seg i).base.toNat = cur
  · rw [if_pos h1]
    constructor
    · intro h; exact .inl ⟨h1, (Res.ok.inj h).2.symm⟩
    · rintro (⟨_, rfl⟩ | ⟨h, _⟩ | ⟨h, _⟩)
      · rfl
      · exact absurd h1 h
      · exact absurd h1 h
  rw [if_neg h1]
  by_cases h2 : s.mode.pag = false ∧ 0 < s.regionSize (s.seg i)
  · rw [if_pos h2]
    have hne : Memory.readRange s.mem (s.seg i).base.toNat (s.regionSize (s.seg i)) ≠ [] := by
      intro h
      have := congrArg List.length h
      simp only [Memory.length_readRange, List.length_nil] at this
      omega
    simp only [Res.bind_eq_ok, memRead_eq_ok, memWrite_eq_ok]
    constructor
    · rintro ⟨v, s1, ⟨ha, rfl, rfl⟩, _, s2, ⟨hb, rfl⟩, hc⟩
      rw [if_neg hne, Memory.length_readRange] at hc
      rw [Memory.length_readRange] at hb
      exact .inr (.inr ⟨h1, h2, ha, hb, (Res.ok.inj hc).2.symm⟩)
    · rintro (⟨h, _⟩ | ⟨_, h, _⟩ | ⟨_, _, ha, hb, rfl⟩)
      · exact absurd h h1
      · exact absurd h2 h
      · refine ⟨_, _, ⟨ha, rfl, rfl⟩, (), _, ⟨by simpa using hb, rfl⟩, ?_⟩
        rw [if_neg hne, Memory.length_readRange]
  · rw [if_neg h2]
    constructor
    · intro h; exact .inr (.inl ⟨h1, h2, (Res.ok.inj h).2.symm⟩)
    · rintro (⟨h, _⟩ | ⟨_, _, rfl⟩ | ⟨_, h, _⟩)
      · exact absurd h h1
      · rfl
      · exact absurd h h2

/-- `Allocate` completes in one of two ways (R165): the first gap that fits, nothing changed; or, when none fits, after evicting where the total is short, then compacting, the first gap that fits. -/
theorem allocate_eq_ok (size a : Nat) (s t : State) : allocate size s = .ok a t ↔
    (firstFit size s = some a ∧ t = s) ∨
    (firstFit size s = none ∧ firstFit size t = some a ∧
      compact (if size ≤ totalFree s then s else evictUntil size (victimOrder s) s) = .ok () t) := by
  unfold allocate
  cases h : firstFit size s with
  | some b => simp [eq_comm]
  | none =>
    simp only [Res.bind_eq_ok, reduceCtorEq, false_and, true_and, false_or]
    constructor
    · rintro ⟨⟨⟩, u, hc, hu⟩
      cases hf : firstFit size u with
      | none => simp [hf] at hu
      | some b => simp only [hf, Res.ok.injEq] at hu; obtain ⟨rfl, rfl⟩ := hu; exact ⟨hf, hc⟩
    · rintro ⟨hf, hc⟩; exact ⟨(), t, hc, by simp [hf]⟩

/-- With the capacity test in front (R166). -/
theorem allocateChecked_eq_ok (size a : Nat) (s t : State) :
    allocateChecked size s = .ok a t ↔ size ≤ s.cfg.memSize ∧ allocate size s = .ok a t := by
  unfold allocateChecked
  split
  · simp only [reduceCtorEq, false_iff, not_and]; omega
  · constructor
    · intro h; exact ⟨by omega, h⟩
    · exact fun h => h.2

/-- What `SegmentLoad` does when it completes (R167). -/
theorem segmentLoad_eq_ok (i : Nat) (s t : State) : segmentLoad i s = .ok () t ↔
    let d := s.seg i
    ∃ a u w, d.limit.toNat ≤ s.cfg.memSize ∧ allocate d.limit.toNat s = .ok a u ∧
      d.diskBase.toNat + d.limit.toNat ≤ u.cfg.diskSize ∧
      memWrite a (Memory.readRange u.cfg.disk d.diskBase.toNat d.limit.toNat)
        (u.emit (.bsRead d.diskBase (d.limit.setWidth 32))) = .ok () w ∧
      t = w.setSeg i { w.seg i with base := toReg32 a, valid := true } := by
  simp only [segmentLoad, Res.bind_eq_ok, allocateChecked_eq_ok, diskRead_eq_ok, Res.ok.injEq,
    true_and, toReg32_toNat, toReg32_limit]
  constructor
  · rintro ⟨a, u, ⟨h1, h2⟩, v, u', ⟨h3, rfl, rfl⟩, ⟨⟩, w, h4, rfl⟩
    exact ⟨a, u, w, h1, h2, h3, h4, rfl⟩
  · rintro ⟨a, u, w, h1, h2, h3, h4, rfl⟩
    exact ⟨a, u, ⟨h1, h2⟩, _, _, ⟨h3, rfl, rfl⟩, (), w, h4, rfl⟩

/-! ## The page table (R191 to R199) -/

/-- The free frame found is below the bound, holds no page, and every frame before it holds one (R194). -/
theorem freeFrame_eq_some (s : State) (n f g : Nat) : freeFrame s n f = some g ↔
    f ≤ g ∧ g < f + n ∧ (s.frame g).resident = false ∧
      ∀ h, f ≤ h → h < g → (s.frame h).resident = true := by
  induction n generalizing f with
  | zero => simp only [freeFrame, reduceCtorEq, false_iff]; omega
  | succ n ih =>
    unfold freeFrame
    split
    · rename_i hr
      rw [ih]
      constructor
      · rintro ⟨h1, h2, h3, h4⟩
        refine ⟨by omega, by omega, h3, fun h hf hg => ?_⟩
        by_cases he : h = f
        · subst he; exact hr
        · exact h4 h (by omega) hg
      · rintro ⟨h1, h2, h3, h4⟩
        have : f ≠ g := by rintro rfl; simp [hr] at h3
        exact ⟨by omega, by omega, h3, fun h hf hg => h4 h (by omega) hg⟩
    · rename_i hr
      simp only [Option.some.injEq]
      constructor
      · rintro rfl
        exact ⟨le_refl _, by omega, by simpa using hr, fun h hf hg => by omega⟩
      · rintro ⟨h1, h2, h3, h4⟩
        by_contra hne
        exact hr (h4 f (le_refl _) (by omega))

/-- No free frame is found exactly when every frame holds a page (R195). -/
theorem freeFrame_eq_none (s : State) (n f : Nat) : freeFrame s n f = none ↔
    ∀ h, f ≤ h → h < f + n → (s.frame h).resident = true := by
  induction n generalizing f with
  | zero => simp only [freeFrame, true_iff]; intro h; omega
  | succ n ih =>
    unfold freeFrame
    split
    · rename_i hr
      rw [ih]
      constructor
      · intro H h hf hg
        by_cases he : h = f
        · subst he; exact hr
        · exact H h (by omega) (by omega)
      · exact fun H h hf hg => H h (by omega) (by omega)
    · rename_i hr
      simp only [reduceCtorEq, false_iff]
      exact fun H => hr (H f (le_refl _) (by omega))

/-- What the eviction of a page does when it completes (R196). -/
theorem evictPage_eq_ok (f : Nat) (s t : State) : evictPage f s = .ok () t ↔
    (s.page (s.frame f).owner).resident = true ∧ (s.page (s.frame f).owner).frame = f ∧
      t = (s.setPage (s.frame f).owner
        { s.page (s.frame f).owner with resident := false }).setFrame f
        { s.frame f with resident := false, owner := 0 } := by
  unfold evictPage raiseFatal
  by_cases h1 : (s.page (s.frame f).owner).resident = false
  · simp [h1]
  · by_cases h2 : (s.page (s.frame f).owner).frame = f
    · simp [h1, h2, eq_comm]
    · simp [h1, h2]

/-- `ChooseFrame` completes with the lowest free frame, or with the oldest frame freed (R194 to R196). -/
theorem chooseFrame_eq_ok (s t : State) (f : Nat) : chooseFrame s = .ok f t ↔
    (freeFrame s s.cfg.numFrames 0 = some f ∧ t = s) ∨
    (freeFrame s s.cfg.numFrames 0 = none ∧ f = oldestFrame s ∧
      evictPage (oldestFrame s) s = .ok () t) := by
  unfold chooseFrame
  cases h : freeFrame s s.cfg.numFrames 0 with
  | some g => simp [eq_comm]
  | none =>
    simp only [Res.bind_eq_ok, Res.ok.injEq, reduceCtorEq, false_and, true_and, false_or]
    constructor
    · rintro ⟨⟨⟩, u, hu, rfl, rfl⟩; exact ⟨rfl, hu⟩
    · rintro ⟨rfl, hu⟩; exact ⟨(), t, hu, rfl, rfl⟩

/-- PAGE_LOOKUP finds a frame exactly for a resident entry that agrees with its frame's; nothing changes (R192, R193). -/
theorem pageLookup_eq_some (v f : Nat) (s t : State) : pageLookup v s = .ok (some f) t ↔
    v < s.cfg.numVPages ∧ (s.page v).populated = true ∧ (s.page v).resident = true ∧
      f = (s.page v).frame ∧ f < s.cfg.numFrames ∧ (s.frame f).resident = true ∧
      (s.frame f).owner = v ∧ t = s := by
  unfold pageLookup raiseFatal
  by_cases h0 : s.cfg.numVPages ≤ v
  · simp only [h0, if_true, reduceCtorEq, false_iff]; omega
  rw [if_neg h0]
  by_cases h1 : (s.page v).populated = false
  · simp [h1]
  by_cases h2 : (s.page v).resident = false
  · simp [h1, h2]
  rw [if_neg h1, if_neg h2]
  split
  · rename_i h3
    simp only [reduceCtorEq, false_iff]
    rintro ⟨_, _, _, rfl, h4, h5, h6, _⟩
    rcases h3 with h3 | h3 | h3
    · omega
    · simp [h5] at h3
    · exact h3 h6
  · rename_i h3
    simp only [not_or, not_le, Bool.not_eq_false, ne_eq, not_not] at h0 h1 h2 h3
    simp only [Res.ok.injEq, Option.some.injEq]
    constructor
    · rintro ⟨rfl, rfl⟩; exact ⟨h0, h1, h2, rfl, h3.1, h3.2.1, h3.2.2, rfl⟩
    · rintro ⟨_, _, _, rfl, _, _, _, rfl⟩; exact ⟨rfl, rfl⟩

/-- PAGE_LOOKUP finds nothing exactly for a populated entry that is not resident; nothing changes (R192). -/
theorem pageLookup_eq_none (v : Nat) (s t : State) : pageLookup v s = .ok none t ↔
    v < s.cfg.numVPages ∧ (s.page v).populated = true ∧ (s.page v).resident = false ∧ t = s := by
  unfold pageLookup raiseFatal
  by_cases h0 : s.cfg.numVPages ≤ v
  · simp only [h0, if_true, reduceCtorEq, false_iff]; omega
  rw [if_neg h0]
  by_cases h1 : (s.page v).populated = false
  · simp [h1]
  rw [if_neg h1]
  by_cases h2 : (s.page v).resident = false
  · rw [if_pos h2]
    simp only [not_le, Bool.not_eq_false] at h0 h1
    simp only [Res.ok.injEq, true_and]
    constructor
    · rintro rfl; exact ⟨h0, h1, h2, rfl⟩
    · rintro ⟨_, _, _, rfl⟩; rfl
  · rw [if_neg h2]
    split <;> simp [h2]

/-- What PAGE_FAULT does when it completes (R191, R198). -/
theorem pageFault_eq_ok (v f : Nat) (s t : State) : pageFault v s = .ok f t ↔
    ∃ u w, chooseFrame s = .ok f u ∧
      v * u.cfg.pageSize + u.cfg.pageSize ≤ u.cfg.diskSize ∧
      memWrite (f * u.cfg.pageSize)
        (Memory.readRange u.cfg.disk (v * u.cfg.pageSize) u.cfg.pageSize)
        (u.emit (.bsRead (toReg32 (v * u.cfg.pageSize)) (toReg32 u.cfg.pageSize))) = .ok () w ∧
      t = (w.setPage v { w.page v with frame := f, resident := true }).setFrame f
        { w.frame f with owner := v, resident := true } := by
  simp only [pageFault, Res.bind_eq_ok, diskRead_eq_ok, Res.ok.injEq]
  constructor
  · rintro ⟨g, u, h1, bs, u', ⟨h2, rfl, rfl⟩, ⟨⟩, w, h3, rfl, rfl⟩
    exact ⟨u, w, h1, h2, by simpa using h3, by simp⟩
  · rintro ⟨u, w, h1, h2, h3, rfl⟩
    exact ⟨f, u, h1, _, _, ⟨h2, rfl, rfl⟩, (), w, by simpa using h3, rfl, by simp⟩

/-- What `EnsurePage` does when it completes: a hit or a page fault, then the stamp (R191, R199). -/
theorem ensurePage_eq_ok (visit : Bool) (v f : Nat) (s t : State) :
    ensurePage visit v s = .ok f t ↔
      ∃ u, (pageLookup v s = .ok (some f) s ∧ u = s ∨
        pageLookup v s = .ok none s ∧
          pageFault v (if visit then s.enter .pageFault else s) = .ok f u) ∧
      stampFrame f u = .ok () t := by
  simp only [ensurePage, Res.bind_eq_ok, Res.ok.injEq]
  constructor
  · rintro ⟨found, s', h1, g, u, h2, ⟨⟩, w, h3, rfl, rfl⟩
    cases found with
    | some g' =>
      obtain rfl := ((pageLookup_eq_some v g' s s').1 h1).2.2.2.2.2.2.2
      simp only [Res.ok.injEq] at h2
      obtain ⟨rfl, rfl⟩ := h2
      exact ⟨s', .inl ⟨h1, rfl⟩, h3⟩
    | none =>
      obtain rfl := ((pageLookup_eq_none v s s').1 h1).2.2.2
      exact ⟨u, .inr ⟨h1, h2⟩, h3⟩
  · rintro ⟨u, h, h3⟩
    rcases h with ⟨h1, rfl⟩ | ⟨h1, h2⟩
    · exact ⟨some f, u, h1, f, u, rfl, (), t, h3, rfl, rfl⟩
    · exact ⟨none, s, h1, f, u, h2, (), t, h3, rfl, rfl⟩

/-- What marking pages populated does (R168, R216). -/
theorem populatePages_eq_ok (v n : Nat) (s t : State) : populatePages v n s = .ok () t ↔
    v + n ≤ s.cfg.numVPages ∧ t = { s with pt := t.pt } ∧
      t.pt = Sparse.setRange PageEntry.empty s.pt v
        ((List.range' v n).map fun p => { s.page p with populated := true }) := by
  unfold populatePages
  split
  · simp only [reduceCtorEq, false_iff, not_and]; omega
  · simp only [Res.ok.injEq, true_and]
    constructor
    · rintro rfl; exact ⟨by omega, rfl, rfl⟩
    · rintro ⟨_, h1, h2⟩; rw [h1, h2]

/-- Every page of the range is populated afterwards and otherwise as before; every other page is as before. -/
theorem populatePages_page (v n : Nat) (s t : State) (h : populatePages v n s = .ok () t)
    (p : Nat) : t.page p = if v ≤ p ∧ p < v + n then { s.page p with populated := true }
      else s.page p := by
  have := (populatePages_eq_ok v n s t).1 h
  rw [State.page, this.2.2, Sparse.get_setRange]
  simp only [List.length_map, List.length_range']
  by_cases hp : v ≤ p ∧ p < v + n
  · have h1 : p - v < n := by omega
    have h2 : v + (p - v) = p := by omega
    simp [hp, List.getD_eq_getElem?_getD, h1, h2]
  · simp only [hp, if_false]; rfl

/-- What `SegmentRegister` does when it completes (R168). -/
theorem segmentRegister_eq_ok (i : Nat) (s t : State) : segmentRegister i s = .ok () t ↔
    let d := s.seg i
    ∃ a u w x, halfCount s.cfg d * s.cfg.pageSize ≤ s.cfg.memSize ∧
      allocate (halfCount s.cfg d * s.cfg.pageSize) s = .ok a u ∧
      populatePages (firstPage u.cfg d) (pageCount u.cfg d)
        (u.setSeg i { u.seg i with base := toReg32 a }) = .ok () w ∧
      loadPages (halfCount s.cfg d) (firstPage w.cfg d) w = .ok () x ∧
      t = x.setSeg i { x.seg i with valid := true } := by
  simp only [segmentRegister, Res.bind_eq_ok, allocateChecked_eq_ok, Res.ok.injEq, true_and,
    State.setSeg_cfg]
  constructor
  · rintro ⟨a, u, ⟨h1, h2⟩, ⟨⟩, w, h3, ⟨⟩, x, h4, rfl⟩
    exact ⟨a, u, w, x, h1, h2, h3, h4, rfl⟩
  · rintro ⟨a, u, w, x, h1, h2, h3, h4, rfl⟩
    exact ⟨a, u, ⟨h1, h2⟩, (), w, h3, (), x, h4, rfl⟩

/-! ## READ (R123 to R130) -/

/-- The checks of SEGMENT_LOOKUP pass exactly for a populated descriptor and a range inside its limit (R124). -/
theorem segmentChecks_eq_ok (sel : Nat) (off len : Word32) (s t : State) :
    segmentChecks sel off len s = .ok () t ↔
      sel < s.cfg.numSegments ∧ (s.seg sel).populated = true ∧
      off.toNat < (s.seg sel).limit.toNat ∧
      off.toNat + len.toNat ≤ (s.seg sel).limit.toNat ∧ t = s := by
  unfold segmentChecks
  by_cases h0 : s.cfg.numSegments ≤ sel
  · simp only [h0, if_true, reduceCtorEq, false_iff]; omega
  rw [if_neg h0]
  by_cases h1 : (s.seg sel).populated = false
  · simp [h1]
  rw [if_neg h1]
  by_cases h2 : (s.seg sel).limit.toNat ≤ off.toNat
  · simp only [h2, if_true, reduceCtorEq, false_iff]; omega
  rw [if_neg h2]
  by_cases h3 : (s.seg sel).limit.toNat < off.toNat + len.toNat
  · simp only [h3, if_true, reduceCtorEq, false_iff]; omega
  rw [if_neg h3]
  simp only [not_le, not_lt, Bool.not_eq_false] at h0 h1 h2 h3
  simp only [Res.ok.injEq, true_and]
  constructor
  · rintro rfl; exact ⟨h0, h1, h2, h3, rfl⟩
  · rintro ⟨_, _, _, _, rfl⟩; rfl

/-- The segment phase: a hit, or a fault that completes, then one stamp (R125 to R127). -/
theorem segmentPhase_eq_ok (sel : Nat) (s t : State) : segmentPhase sel s = .ok () t ↔
    ∃ u, ((s.seg sel).valid = true ∧ u = s ∨
      (s.seg sel).valid = false ∧ segmentFault sel (s.enter .segmentFault) = .ok () u) ∧
    stampSegment sel u = .ok () t := by
  unfold segmentPhase
  split
  · rename_i h; simp [h]
  · rename_i h
    simp only [Bool.not_eq_true] at h
    simp only [h, Res.bind_eq_ok, Bool.false_eq_true, false_and, true_and, false_or]
    constructor
    · rintro ⟨⟨⟩, u, h1, h2⟩; exact ⟨u, h1, h2⟩
    · rintro ⟨u, h1, h2⟩; exact ⟨(), u, h1, h2⟩

/-- READ in segment and paged mode: the checks, the segment phase, the access of the mode (R124 to R130). -/
theorem readTranslated_eq_ok (sel : Nat) (off len : Word32) (s t : State) :
    readTranslated sel off len s = .ok () t ↔
      segmentChecks sel off len (s.enter .segmentLookup) = .ok () (s.enter .segmentLookup) ∧
      ∃ u, segmentPhase sel (s.enter .segmentLookup) = .ok () u ∧
        (if u.mode.pag then readPaged sel off len u else readSegment sel off len u) = .ok () t := by
  simp only [readTranslated, Res.bind_eq_ok]
  constructor
  · rintro ⟨⟨⟩, s', h1, ⟨⟩, u, h2, h3⟩
    obtain rfl := ((segmentChecks_eq_ok sel off len _ s').1 h1).2.2.2.2
    exact ⟨h1, u, h2, h3⟩
  · rintro ⟨h1, u, h2, h3⟩; exact ⟨(), _, h1, (), u, h2, h3⟩

end Sys2Proof.Machine
end

