-- ==== Sys2Proof/Laws/PerInstr.lean ====
section
/-! SUPPORT. Statements about every command as syntax, one lemma per command. -/

namespace Sys2Proof.Laws.OpcodeField

set_option Elab.async false

/-- The word of a command carries its opcode in bits 127:124, and that opcode is not a reserved one (R96, R104, R105). -/
def Statement (i : Instr) : Prop := opOf (encodeWord i) = i.opcode ∧ i.opcode.toNat < 7

theorem read (la : LogicalAddr) (len : Word32) : Statement (.read la len) :=
  ⟨opOf_encodeWord _, by simp [Instr.opcode]⟩

theorem write (pa len : Word32) (data : List Byte) : Statement (.write pa len data) :=
  ⟨opOf_encodeWord _, by simp [Instr.opcode]⟩

theorem regseg (index : BitVec 13) (base diskBase : Word32) (limit : BitVec 31) (valid : Bool) :
    Statement (.regseg index base diskBase limit valid) :=
  ⟨opOf_encodeWord _, by simp [Instr.opcode]⟩

theorem invseg (index : BitVec 13) : Statement (.invseg index) :=
  ⟨opOf_encodeWord _, by simp [Instr.opcode]⟩

theorem invpage (vpn : Word32) : Statement (.invpage vpn) :=
  ⟨opOf_encodeWord _, by simp [Instr.opcode]⟩

theorem clear : Statement .clear :=
  ⟨opOf_encodeWord _, by simp [Instr.opcode]⟩

theorem setmode (seg pag : Bool) : Statement (.setmode seg pag) :=
  ⟨opOf_encodeWord _, by simp [Instr.opcode]⟩

end Sys2Proof.Laws.OpcodeField
end

