-- ==== Sys2Proof/Laws/Visits.lean ====
section
/-! SUPPORT. How one more page visit changes what the visits say of the frames, and how one more region extends a packing. -/

namespace Sys2Proof.Machine

@[simp] theorem lastVisit_nil (f : Nat) : lastVisit [] f = none := rfl

/-- The last visit of a frame after one more visit. -/
theorem lastVisit_append (past : List PageVisit) (r : PageVisit) (f : Nat) :
    lastVisit (past ++ [r]) f = if r.frame = f then some past.length else lastVisit past f := by
  have earlier : ∀ k ∈ (List.range past.length).reverse, (past ++ [r])[k]? = past[k]? := by
    intro k hk
    rw [List.mem_reverse, List.mem_range] at hk
    exact List.getElem?_append_left hk
  have rest : (List.range past.length).reverse.find?
        (fun k => ((past ++ [r])[k]?).map PageVisit.frame = some f) = lastVisit past f := by
    unfold lastVisit
    exact List.find?_congr fun k hk => by rw [earlier k hk]
  rw [lastVisit, List.length_append, List.length_singleton, List.range_succ, List.reverse_append,
    List.reverse_singleton, List.singleton_append, List.find?_cons]
  by_cases h : r.frame = f
  · simp [h]
  · simp only [List.getElem?_append_right (Nat.le_refl _), Nat.sub_self,
      List.getElem?_cons_zero, Option.map_some, Option.some.injEq, h, decide_false, if_false]
    exact rest

/-- The place of a last visit is a place in the list. -/
theorem lastVisit_lt (past : List PageVisit) (f k : Nat) (h : lastVisit past f = some k) :
    k < past.length := by
  have := List.mem_of_find?_eq_some h
  simpa using this

@[simp] theorem heldBy_nil (s : State) (f v : Nat) :
    heldBy s [] f v ↔ (s.frame f).resident = true ∧ (s.frame f).owner = v := Iff.rfl

/-- After one more visit its frame holds its page, and every other frame what it held. -/
theorem heldBy_append (s : State) (past : List PageVisit) (r : PageVisit) (f v : Nat) :
    heldBy s (past ++ [r]) f v ↔ if r.frame = f then r.page = v else heldBy s past f v := by
  unfold heldBy
  rw [lastVisit_append]
  by_cases h : r.frame = f
  · simp [h]
  · simp only [h, if_false]
    cases hl : lastVisit past f with
    | none => rfl
    | some k => simp [List.getElem?_append_left (lastVisit_lt past f k hl)]

/-- After one more visit its frame is in use, and every other frame as it was. -/
theorem inUse_append (s : State) (past : List PageVisit) (r : PageVisit) (f : Nat) :
    inUse s (past ++ [r]) f ↔ r.frame = f ∨ inUse s past f := by
  unfold inUse
  rw [lastVisit_append]
  by_cases h : r.frame = f <;> simp [h]

/-- After one more visit its frame has that visit's stamp, and every other frame what it had. -/
theorem stampAfter_append (s : State) (la : LogicalAddr) (past : List PageVisit) (r : PageVisit)
    (f : Nat) : stampAfter s la (past ++ [r]) f =
      if r.frame = f then visitStamp s la past.length else stampAfter s la past f := by
  unfold stampAfter
  rw [lastVisit_append]
  by_cases h : r.frame = f <;> simp [h]

/-- A packing names its selectors in order. -/
@[simp] theorem packing_selectors (s : State) (order : List Nat) (cur : Nat) :
    (packing s order cur).map Prod.fst = order := by
  induction order generalizing cur with
  | nil => rfl
  | cons i rest ih => simp [packing, ih]

end Sys2Proof.Machine
end

