-- ==== Sys2Proof/Tests/Slice0.lean ====
section
/-! SUPPORT. Tests on fixed values, and for every statement with hypotheses a concrete case that meets them. Expected values come from the rules and worked examples named with each test. -/

namespace Sys2Proof.Tests

open Sys2Proof.Machine

set_option Elab.async false
set_option synthInstance.maxSize 1000
set_option synthInstance.maxHeartbeats 100000

/-! ## Well-formedness, decoding, encoding -/

/-- A payload shorter than LEN is refused (R98). -/
theorem test_write_short_payload_ill_formed :
    (Instr.write 0 2 [7]).wellFormed = false ∧ (Instr.write 0 2 [7, 8]).wellFormed = true := by
  decide

/-- 95_test_vectors.md section 3: `READ sel=1 off=4 len=4`. -/
theorem test_decode_read : decodeTableWord 128 0x00000000000000080000000400000004 =
    some (.read 0x000800000004 4) := by decide

/-- R97 field by field, every reserved bit set: LA = 0xFEDCBA987654, LEN = 0x89ABCDEF. -/
theorem test_decode_read_reserved : decodeTableWord 128 0x0fffffffffff_fedcba987654_89abcdef =
    some (.read 0xfedcba987654 0x89abcdef) := by decide

/-- R98: PA = 0x80000001, LEN = 2, reserved bits set, then the payload and the next command. -/
theorem test_decode_write :
    decode [.word 0x1fffffffffffffff_80000001_00000002, .byte 0xAA, .byte 0xBB, .reset] =
      .ok (.write 0x80000001 2 [0xAA, 0xBB], [.reset]) := by rfl

/-- R99: INDEX = 0x1001, BASE = 0x80000002, DISKBASE = 0x40000003, LIMIT = 0x20000004, VALID = 1. -/
theorem test_decode_regseg : decodeTableWord 128 0x2000_1001_80000002_40000003_40000009 =
    some (.regseg 0x1001 0x80000002 0x40000003 0x20000004 true) := by decide

/-- R99: the reserved bits 123:109 are ignored. -/
theorem test_decode_regseg_reserved : decodeTableWord 128 0x2fff_e000_00000000_00000000_00000002 =
    some (.regseg 0 0 0 1 false) := by decide

/-- R100. -/
theorem test_decode_invseg : decodeTableWord 128 0x3000000000000000000000000000ffff =
    some (.invseg 0x1fff) := by decide

/-- R101. -/
theorem test_decode_invpage : decodeTableWord 128 0x400000000000000000000001_80000010 =
    some (.invpage 0x80000010) := by decide

/-- R102. -/
theorem test_decode_clear : decodeTableWord 128 0x5fffffffffffffffffffffffffffffff =
    some .clear := by decide

/-- R103: SEG is bit 0, PAG is bit 1. -/
theorem test_decode_setmode :
    decodeTableWord 128 0x60000000000000000000000000000001 = some (.setmode true false) ∧
    decodeTableWord 128 0x6000000000000000000000000000000e = some (.setmode false true) := by decide

/-- R105: opcodes 7 and 15 are reserved. -/
theorem test_decode_reserved_opcodes :
    decode [.word 0x70000000000000000000000000000000] = .error (.reservedOpcode 7) ∧
    decode [.word 0xf0000000000000000000000000000000] = .error (.reservedOpcode 15) :=
  ⟨rfl, rfl⟩

/-- Port sequences that are no command (log entries 6, 7). -/
theorem test_decode_no_command :
    decode [] = .error .noCommand ∧ decode [.byte 1] = .error .strayByte ∧
    decode [.word 0x10000000000000000000000000000002, .byte 1] = .error .payloadPending ∧
    decode [.word 0x10000000000000000000000000000002, .reset] = .error .payloadCutShort :=
  ⟨rfl, rfl, rfl, rfl⟩

/-- 95_test_vectors.md section 2.4, step 3: the word of a REGSEG. -/
theorem test_encode_regseg : encodeWord (.regseg 1 0xA00000 0x1400000 0x2000000 true) =
    0x2000000100a000000140000004000001 := by decide

/-- R91: the fields of `SEL = 5, RSV = 0, OFF = 0x20` and of `SEL = 1, RSV = 7, OFF = 4`. -/
theorem test_address_fields :
    selOf 0x002800000020 = 5 ∧ offOf 0x002800000020 = 0x20 ∧
    selOf 0x000F00000004 = 1 ∧ offOf 0x000F00000004 = 4 := by decide

/-! ## One step of each command, in the SMALL configuration of 95_test_vectors.md -/

/-- SMALL: `PAGE_SIZE = 16`, `MEM_SIZE = 64`, `DISK_SIZE = 256`, `NUM_SEGMENTS = 8`, `Disk(i) = i`. -/
def small : Config :=
  ⟨4, 6, 8, 8, (List.range' 1 255).map fun i => (i, BitVec.ofNat 8 i), []⟩

/-- Does the command end in a next state with this property? -/
def nextWith (o : Host.Outcome State Fault Refusal) (p : State → Bool) : Bool :=
  match o with
  | .next t => p t
  | .fault _ => false
  | .refused _ => false

/-- A state of SMALL with the given mode and table entries. -/
def smallWith (seg pag : Bool) (clock : Stamp) (st : Sparse Descriptor) (pt : Sparse PageEntry)
    (rpt : Sparse FrameEntry) : State :=
  { State.init small with mode := ⟨seg, pag⟩, clock := clock, st := st, pt := pt, rpt := rpt }

/-- R120's worked example: the segment fault loads 32 bytes to address 0. -/
theorem test_read_segment_fault :
    nextWith (exec (.read 0x000800000004 4)
      (smallWith true false 0 [(1, ⟨true, 0, 0x40, 0x20, false, 0⟩)] [] []))
      (fun t => t.response = ⟨.ok, [0x44, 0x45, 0x46, 0x47]⟩ ∧
        t.trace = [.bsRead 0x40 32, .notice 0 32] ∧
        t.seg 1 = ⟨true, 0, 0x40, 0x20, true, 1⟩) = true := by decide +kernel

/-- R93: bits 34:32 of the address, here all ones, are not stored. -/
theorem test_read_stores_no_reserved_bit :
    nextWith (exec (.read 0x000F00000004 4) (State.init small))
      (fun t => t.seq.reqLA = 0x000800000004) = true := by decide +kernel

/-- R200's replacement, by a READ of one byte of page 7: page 4 leaves frame 2. -/
theorem test_read_page_replacement :
    nextWith (exec (.read 0x000000000070 1)
      (smallWith true true 10 [(0, ⟨true, 0, 0, 0x80, true, 1⟩)]
        [(2, ⟨true, true, 0⟩), (3, ⟨true, true, 1⟩), (4, ⟨true, true, 2⟩), (6, ⟨true, true, 3⟩),
          (7, ⟨true, false, 0⟩)]
        [(0, ⟨true, 2, 5⟩), (1, ⟨true, 3, 10⟩), (2, ⟨true, 4, 3⟩), (3, ⟨true, 6, 8⟩)]))
      (fun t => t.response = ⟨.ok, [0x70]⟩ ∧ t.trace = [.bsRead 0x70 16, .notice 32 16] ∧
        t.page 4 = ⟨true, false, 2⟩ ∧ t.page 7 = ⟨true, true, 2⟩ ∧ t.frame 2 = ⟨true, 7, 12⟩) =
      true := by decide +kernel

/-- R211's example. -/
theorem test_write : nextWith (exec (.write 6 2 [0xAA, 0xBB]) (State.init small))
    (fun t => t.response = ⟨.ok, []⟩ ∧ t.byte 6 = 0xAA ∧ t.byte 7 = 0xBB ∧ t.byte 8 = 0 ∧
      t.trace = [.notice 6 2]) = true := by decide +kernel

/-- R214's example. -/
theorem test_regseg :
    nextWith (exec (.regseg 1 0 0x40 0x20 false) (smallWith true false 0 [] [] []))
    (fun t => t.seq.status = .ok ∧ t.seg 1 = ⟨true, 0, 0x40, 0x20, false, 0⟩) = true := by
  decide +kernel

/-- R218's corner cases: the flag alone is cleared; an unpopulated index is an error. -/
theorem test_invseg :
    nextWith (exec (.invseg 2) (smallWith true false 3 [(2, ⟨true, 16, 0x80, 16, true, 3⟩)] [] []))
      (fun t => t.seq.status = .ok ∧ t.seg 2 = ⟨true, 16, 0x80, 16, false, 3⟩) = true ∧
    nextWith (exec (.invseg 3) (State.init small)) (fun t => t.seq.status = .segmentFault) =
      true := by decide +kernel

/-- R221's example: `INVPAGE vpn=7` frees frame 2. -/
theorem test_invpage :
    nextWith (exec (.invpage 7)
      (smallWith true true 12 [] [(7, ⟨true, true, 2⟩)] [(2, ⟨true, 7, 12⟩)]))
      (fun t => t.seq.status = .ok ∧ t.page 7 = ⟨true, false, 2⟩ ∧ t.frame 2 = ⟨false, 0, 12⟩) =
      true := by decide +kernel

/-- R224's example: after CLEAR a segment-mode READ answers SegmentFault. -/
theorem test_clear :
    nextWith (exec .clear (smallWith true false 9 [(0, ⟨true, 0, 0, 16, true, 3⟩)] [] []))
      (fun t => t.clock = 0 ∧ t.mode.seg = true ∧ nextWith (exec (.read 0 1) t)
        (fun u => u.seq.status = .segmentFault)) = true := by decide +kernel

/-- R230's example, and R233: no change of PAG once a descriptor is registered. -/
theorem test_setmode :
    nextWith (exec (.setmode true true) (State.init small))
      (fun t => t.seq.status = .ok ∧ t.mode = ⟨true, true⟩) = true ∧
    nextWith (exec (.setmode true false)
      (smallWith true true 0 [(0, ⟨true, 0, 0, 16, false, 0⟩)] [] []))
      (fun t => t.seq.status = .badRequest ∧ t.mode = ⟨true, true⟩) = true := by decide +kernel

/-! ## The words of the opcode table, run as the first command after reset -/

/-- The seven rows' words run to their end from the reset state. -/
theorem test_first_commands :
    [0, 1, 2, 3, 4, 5, 6].map (fun op => nextWith (step (State.reset.withFetchWord 128 (op * 2 ^ 124)))
      (fun t => t.seq.fsm = .idle ∧ t.input = [])) =
    [true, true, true, true, true, true, true] := by decide +kernel

/-! ## A small machine for the hypotheses of the statements

Four segments, 16 bytes of memory in four frames of 4 bytes, 32 bytes of backing store with `Disk(i) = i`. -/

def tiny : Config := ⟨2, 4, 5, 4, (List.range' 1 31).map fun i => (i, BitVec.ofNat 8 i), []⟩

/-- Segment mode: segment 0 is resident at 0, segment 1 is not resident, segment 2 is larger than the memory. -/
def segS : State :=
  { State.init tiny with
    mode := ⟨true, false⟩
    clock := 3
    st := [(0, ⟨true, 0, 0, 4, true, 2⟩), (1, ⟨true, 0, 8, 6, false, 0⟩),
      (2, ⟨true, 0, 0, 20, false, 0⟩)]
    mem := [(1, 1), (2, 2), (3, 3)] }

/-- Paged mode: segment 0 is registered, its pages 0 and 1 are resident and page 2 is not; segment 1 is not registered. -/
def pagS : State :=
  { State.init tiny with
    mode := ⟨true, true⟩
    clock := 5
    st := [(0, ⟨true, 0, 2, 10, true, 3⟩), (1, ⟨true, 0, 16, 8, false, 0⟩)]
    pt := [(0, ⟨true, true, 0⟩), (1, ⟨true, true, 1⟩), (2, ⟨true, false, 0⟩)]
    rpt := [(0, ⟨true, 0, 4⟩), (1, ⟨true, 1, 5⟩)]
    mem := (List.range' 1 7).map fun i => (i, BitVec.ofNat 8 i) }

/-- Paged mode with all four frames in use; page 4 is populated and not resident. -/
def fullS : State :=
  { State.init tiny with
    mode := ⟨true, true⟩
    clock := 9
    st := [(0, ⟨true, 0, 0, 20, true, 3⟩)]
    pt := [(0, ⟨true, true, 0⟩), (1, ⟨true, true, 1⟩), (2, ⟨true, true, 2⟩), (3, ⟨true, true, 3⟩),
      (4, ⟨true, false, 0⟩)]
    rpt := [(0, ⟨true, 0, 6⟩), (1, ⟨true, 1, 5⟩), (2, ⟨true, 2, 8⟩), (3, ⟨true, 3, 9⟩)]
    mem := (List.range' 1 15).map fun i => (i, BitVec.ofNat 8 i) }

/-- Segment mode at the end of CLOCK. -/
def endS : State := { segS with clock := BitVec.allOnes 64 }

theorem segS_inv : segS.Inv :=
  ⟨⟨by decide +kernel, by decide +kernel, by decide +kernel, by decide +kernel, by decide +kernel, by decide +kernel, by decide +kernel, by decide +kernel,
    by decide +kernel⟩, by decide +kernel, by decide +kernel⟩

theorem pagS_inv : pagS.Inv :=
  ⟨⟨by decide +kernel, by decide +kernel, by decide +kernel, by decide +kernel, by decide +kernel, by decide +kernel, by decide +kernel, by decide +kernel,
    by decide +kernel⟩, by decide +kernel, by decide +kernel⟩

theorem fullS_inv : fullS.Inv :=
  ⟨⟨by decide +kernel, by decide +kernel, by decide +kernel, by decide +kernel, by decide +kernel, by decide +kernel, by decide +kernel, by decide +kernel,
    by decide +kernel⟩, by decide +kernel, by decide +kernel⟩

theorem endS_inv : endS.Inv :=
  ⟨⟨by decide +kernel, by decide +kernel, by decide +kernel, by decide +kernel, by decide +kernel, by decide +kernel, by decide +kernel, by decide +kernel,
    by decide +kernel⟩, by decide +kernel, by decide +kernel⟩

theorem nextWith_spec (o : Host.Outcome State Fault Refusal) (p : State → Bool)
    (h : nextWith o p = true) : ∃ t, o = .next t ∧ p t = true := by
  cases o with
  | next t => exact ⟨t, rfl, h⟩
  | fault f => cases h
  | refused r => cases h

/-- A command that ends in a next state with this status, as a hypothesis of the statements. -/
theorem ends_in (i : Instr) (s : State) (k : Status)
    (h : nextWith (exec i s) (fun t => t.seq.status = k) = true) :
    ∃ t, exec i s = .next t ∧ t.seq.status = k := by
  obtain ⟨t, ht, hk⟩ := nextWith_spec _ _ h
  exact ⟨t, ht, of_decide_eq_true hk⟩

/-- A step that ends in a next state. -/
theorem step_next (s : State) (h : nextWith (step s) (fun _ => true) = true) :
    ∃ t, step s = .next t := by
  obtain ⟨t, ht, _⟩ := nextWith_spec _ _ h
  exact ⟨t, ht⟩

/-! ## Witnesses: port, reset, encoding -/

theorem witness_InvariantHoldsAtReset : tiny.wf ∧ Config.reference.wf := by decide +kernel

theorem witness_StepKeepsInvariant : ∃ s t : State, s.Inv ∧ step s = .next t ∧ s.input ≠ [] := by
  obtain ⟨t, ht⟩ := step_next { pagS with input := encode (.read 0x000000000005 3) }
    (by decide +kernel)
  exact ⟨_, t, ⟨⟨by decide +kernel, by decide +kernel, by decide +kernel, by decide +kernel,
    by decide +kernel, by decide +kernel, by decide +kernel, by decide +kernel,
    by decide +kernel⟩, by decide +kernel, by decide +kernel⟩, ht, by decide +kernel⟩

theorem witness_StepKeepsParametersAndExtendsTrace :
    ∃ s t : State, step s = .next t ∧ s.input.head? ≠ some .reset ∧ s.input ≠ [] := by
  obtain ⟨t, ht⟩ := step_next { pagS with input := encode (.read 0x000000000009 1) }
    (by decide +kernel)
  exact ⟨_, t, ht, by decide +kernel, by decide +kernel⟩

theorem witness_PagingImpliesSegmentation : ∃ s t : State, s.mode.legal ∧ step s = .next t := by
  obtain ⟨t, ht⟩ := step_next { State.init tiny with input := encode (.setmode true true) }
    (by decide +kernel)
  exact ⟨_, t, by decide +kernel, ht⟩

theorem witness_DecodeOfEncodeIsTheCommand :
    (Instr.write 0xffffffff 1 [0xff]).wellFormed = true ∧ (Instr.read 0 0).wellFormed = true := by
  decide

theorem witness_DecodedCommandIsWellFormedAndTakesItsPayload :
    decode [.word 0x10000000000000000000000000000001, .byte 9, .byte 8] =
      .ok (.write 0 1 [9], [.byte 8]) := by rfl

theorem witness_ReservedCommandBitsAreIgnored :
    opOf 0x3fff_0000_0000_0000_0000_0000_0000_2001 = opOf 0x3000_0000_0000_0000_0000_0000_0000_0001 ∧
    (0x3fff_0000_0000_0000_0000_0000_0000_2001 : CmdWord).toNat % 2 ^ operandBits 3 =
      (0x3000_0000_0000_0000_0000_0000_0000_0001 : CmdWord).toNat % 2 ^ operandBits 3 := by decide

theorem witness_ReservedAddressBitsAreIgnored :
    (selOf 0x000F00000004 = selOf 0x000800000004 ∧ offOf 0x000F00000004 = offOf 0x000800000004) ∧
    ((State.init tiny).mode.seg = false ∧ offOf 0x002800000020 = offOf 0x000000000020) := by decide

theorem witness_StepRunsTheDecodedCommand :
    (State.init tiny).seq.fsm = .idle ∧
    decode (encode (.write 3 1 [7]) ++ [.reset]) = .ok (.write 3 1 [7], [.reset]) := ⟨rfl, rfl⟩

/-- At the lowest reserved opcode, 7. -/
theorem witness_ReservedOpcodeAnswersBadRequest :
    segS.seq.fsm = .idle ∧ segS.fatal = false ∧
    7 ≤ (opOf 0x70000000000000000000000000000000).toNat := by decide

theorem witness_PortWaitsResetsAndRefuses :
    segS.seq.fsm = .idle ∧ segS.input = [] ∧
    decode [.word 0x10000000000000000000000000000001] = .error .payloadPending ∧
    decode [.word 0x10000000000000000000000000000001, .reset] = .error .payloadCutShort ∧
    ({ segS with seq := { segS.seq with fsm := .access } } : State).seq.fsm ≠ .idle :=
  ⟨rfl, rfl, rfl, rfl, by decide⟩

/-! ## Witnesses: FATAL, errors, the response -/

/-- The end of CLOCK makes a READ of a resident byte end with InternalConsistency (log entry 10). -/
theorem witness_FatalLatchesAndFreezes :
    (∃ t, exec (.read 0 1) endS = .next t ∧ t.seq.status = .internalConsistency) ∧
    endS.fatal = false ∧ ({ endS with fatal := true } : State).fatal = true ∧
    (∃ t, step { endS with fatal := true, input := encode .clear } = .next t) :=
  ⟨ends_in _ _ _ (by decide +kernel), rfl, rfl, step_next _ (by decide +kernel)⟩

theorem witness_ErrorsChangeNothing :
    (segS.Inv ∧ ∃ t, exec (.read 0 5) segS = .next t ∧ t.seq.status = .crossSegmentRead) ∧
    (endS.Inv ∧ ∃ t, exec (.read 0 1) endS = .next t ∧ t.seq.status = .internalConsistency) :=
  ⟨⟨segS_inv, ends_in _ _ _ (by decide +kernel)⟩, endS_inv, ends_in _ _ _ (by decide +kernel)⟩

/-- One stamp too many, and a command that needs none. -/
theorem witness_ConsistencyErrorMeansClockRanOut :
    endS.Inv ∧ endS.fatal = false ∧
    (∃ t, exec (.read 0 1) endS = .next t ∧ t.seq.status = .internalConsistency) ∧
    ∃ t, exec (.invseg 0) endS = .next t ∧ t.seq.status = .ok :=
  ⟨endS_inv, rfl, ends_in _ _ _ (by decide +kernel), ends_in _ _ _ (by decide +kernel)⟩

/-- 93 U9: a READ that would load segment 1 and then stamp past the end of CLOCK is refused before it loads anything. -/
theorem test_wrap_refused_whole :
    nextWith (exec (.read 0x000800000000 6) endS)
      (fun t => t.seq.status = .internalConsistency ∧
        t = { endS with seq := t.seq, fatal := true }) = true := by decide +kernel

theorem witness_CommandThatWouldWrapIsRefused :
    endS.Inv ∧ endS.fatal = false ∧
    2 ^ 64 ≤ endS.clock.toNat + commandStamps (.read 0x000800000000 6) endS :=
  ⟨endS_inv, rfl, by decide⟩

/-- A command with room for its stamps, one with none, the reset event, and a state with FATAL set. -/
theorem witness_SafeStepsLeaveFatalClear :
    (segS.Inv ∧ segS.fatal = false ∧ decode (encode (.read 0 4)) = .ok (.read 0 4, []) ∧
      segS.clock.toNat + commandStamps (.read 0 4) segS < 2 ^ 64) ∧
    (endS.Inv ∧ ¬ endS.clock.toNat + commandStamps (.read 0 4) endS < 2 ^ 64) ∧
    segS.seq.fsm = .idle ∧ ({ endS with fatal := true } : State).fatal = true ∧
    endS.input.head? ≠ some .reset :=
  ⟨⟨segS_inv, rfl, rfl, by decide⟩, ⟨endS_inv, by decide⟩, rfl, rfl, by decide⟩

theorem witness_EveryCommandEnds :
    pagS.Inv ∧ (Instr.write 15 1 [1]).wellFormed = true ∧ (Instr.read 8 2).wellFormed = true :=
  ⟨pagS_inv, by decide, by decide⟩

theorem witness_OnlySuccessfulReadsReturnData :
    ∃ t, exec (.read 0 4) segS = .next t ∧ t.response.data ≠ [] ∧ t.seq.status = .ok := by
  obtain ⟨t, ht, h⟩ := nextWith_spec (exec (.read 0 4) segS)
    (fun t => t.response.data ≠ [] ∧ t.seq.status = .ok) (by decide +kernel)
  exact ⟨t, ht, of_decide_eq_true h⟩

/-! ## Witnesses: READ -/

/-- A READ that ends at the last byte of the backing store, and one that ends one byte beyond it. -/
theorem witness_RealModeReadsTheBackingStore :
    (State.init tiny).fatal = false ∧ (State.init tiny).mode.seg = false ∧
    (offOf 30).toNat + (2 : Word32).toNat ≤ tiny.diskSize ∧
    tiny.diskSize < (offOf 30).toNat + (3 : Word32).toNat := by decide

/-- Selector 4 is the first outside the table; 3 is unpopulated; offset 4 is the limit of segment 0; a READ of two bytes at offset 3 crosses it. -/
theorem witness_SegmentLookupChecksComeFirst :
    segS.fatal = false ∧ segS.mode.seg = true ∧
    segS.cfg.numSegments ≤ (selOf 0x002000000000).toNat ∧
    (segS.seg (selOf 0x001800000000).toNat).populated = false ∧
    (segS.seg (selOf 4).toNat).limit.toNat ≤ (offOf 4).toNat ∧
    (offOf 3).toNat < (segS.seg (selOf 3).toNat).limit.toNat ∧
    (segS.seg (selOf 3).toNat).limit.toNat < (offOf 3).toNat + (2 : Word32).toNat := by decide

theorem witness_OutOfMemoryExactlyForOversizedRegions :
    segS.fatal = false ∧ segS.mode.seg = true ∧ readable 0x001000000000 20 segS ∧
    (segS.seg 2).valid = false ∧ segS.cfg.memSize < segS.regionSize (segS.seg 2) ∧
    ∃ t, exec (.read 0x001000000000 20) segS = .next t ∧ t.seq.status = .outOfMemory :=
  ⟨by decide, by decide, by decide, by decide, by decide, ends_in _ _ _ (by decide +kernel)⟩

/-- The whole of segment 0, and its last byte. -/
theorem witness_SegmentHitReadsResidentBytes :
    segS.fatal = false ∧ segS.mode.seg = true ∧ segS.mode.pag = false ∧ readable 0 4 segS ∧
    readable 3 1 segS ∧ (segS.seg 0).valid = true ∧
    (segS.seg 0).base.toNat + (segS.seg 0).limit.toNat ≤ segS.cfg.memSize ∧
    segS.clock ≠ BitVec.allOnes 64 := by decide

theorem witness_SegmentFaultLoadsTheSegment :
    segS.Inv ∧ segS.fatal = false ∧ segS.mode.seg = true ∧ segS.mode.pag = false ∧
    readable 0x000800000000 6 segS ∧
    (segS.seg (selOf 0x000800000000).toNat).valid = false ∧
    (segS.seg (selOf 0x000800000000).toNat).limit.toNat ≤ segS.cfg.memSize ∧
    segS.clock ≠ BitVec.allOnes 64 :=
  ⟨segS_inv, rfl, by decide, by decide, by decide, by decide, by decide, by decide⟩

/-- Offsets 0 to 5 of segment 0 lie in pages 0 and 1. -/
theorem witness_PagedHitReadsTheFrames :
    pagS.Inv ∧ pagS.fatal = false ∧ pagS.mode.seg = true ∧ pagS.mode.pag = true ∧
    readable 0 6 pagS ∧
    (pagS.seg (selOf 0).toNat).valid = true ∧
    (∀ k < (6 : Word32).toNat, (pagS.page (readPage pagS 0 k)).resident = true) ∧
    pagS.clock.toNat + pagedStamps pagS 0 6 < 2 ^ 64 :=
  ⟨pagS_inv, rfl, by decide, by decide, by decide, by decide, by decide, by decide⟩

/-- A registered segment with a page fault, and one that must be registered first. -/
theorem witness_PagedReadEndsAndStamps :
    pagS.Inv ∧ pagS.fatal = false ∧ pagS.mode.seg = true ∧ pagS.mode.pag = true ∧
    (readable 0 10 pagS ∧ (pagS.seg 0).valid = true ∧
      pagS.clock.toNat + pagedStamps pagS 0 10 < 2 ^ 64) ∧
    (readable 0x000800000000 8 pagS ∧ pagS.regionSize (pagS.seg 1) ≤ pagS.cfg.memSize ∧
      pagS.clock.toNat + pagedStamps pagS 0x000800000000 8 < 2 ^ 64) :=
  ⟨pagS_inv, rfl, by decide, by decide, by decide, by decide⟩

/-- A READ of a registered segment that replaces a page, and one of no bytes that registers its segment. -/
theorem witness_PagedReadFollowsItsVisits :
    (fullS.Inv ∧ fullS.fatal = false ∧ fullS.mode.seg = true ∧ fullS.mode.pag = true ∧
      readable 0 20 fullS ∧ (fullS.seg 0).valid = true ∧
      fullS.clock.toNat + pagedStamps fullS 0 20 < 2 ^ 64) ∧
    (pagS.Inv ∧ readable 0x000800000000 0 pagS ∧
      (pagS.seg (selOf 0x000800000000).toNat).valid = false ∧
      pagS.regionSize (pagS.seg (selOf 0x000800000000).toNat) ≤ pagS.cfg.memSize ∧
      pagS.clock.toNat + pagedStamps pagS 0x000800000000 0 < 2 ^ 64) :=
  ⟨⟨fullS_inv, rfl, by decide, by decide, by decide, by decide, by decide⟩,
    pagS_inv, by decide, by decide, by decide, by decide⟩

theorem witness_PagedReadEvictsNoneOfItsPages :
    fullS.Inv ∧ fullS.mode.seg = true ∧ fullS.mode.pag = true ∧
    (∃ t, exec (.read 4 16) fullS = .next t ∧ t.seq.status = .ok) ∧
    chunkCount fullS.cfg (readLin fullS 4 0) (16 : Word32).toNat ≤ fullS.cfg.numFrames :=
  ⟨fullS_inv, by decide, by decide, ends_in _ _ _ (by decide +kernel), by decide⟩

theorem witness_RepeatedPagedReadIsIdempotent :
    fullS.Inv ∧ fullS.mode.seg = true ∧ fullS.mode.pag = true ∧
    chunkCount fullS.cfg (readLin fullS 4 0) (16 : Word32).toNat ≤ fullS.cfg.numFrames ∧
    ∃ t, exec (.read 4 16) fullS = .next t ∧ t.seq.status = .ok ∧
      t.clock.toNat + 1 + chunkCount fullS.cfg (readLin fullS 4 0) (16 : Word32).toNat < 2 ^ 64 := by
  obtain ⟨t, ht, h⟩ := nextWith_spec (exec (.read 4 16) fullS)
    (fun t => t.seq.status = .ok ∧ t.clock.toNat + 1 +
      chunkCount fullS.cfg (readLin fullS 4 0) (16 : Word32).toNat < 2 ^ 64) (by decide +kernel)
  exact ⟨fullS_inv, by decide, by decide, by decide, t, ht, of_decide_eq_true h⟩

theorem segS_coherent : segS.coherent := by decide +kernel

theorem fullS_coherent : fullS.coherent := by decide +kernel

theorem witness_TranslatedReadReturnsTheBackingStore :
    (segS.Inv ∧ segS.coherent ∧ segS.mode.seg = true ∧
      ∃ t, exec (.read 0x000800000000 6) segS = .next t ∧ t.seq.status = .ok) ∧
    (fullS.Inv ∧ fullS.coherent ∧ fullS.mode.seg = true ∧
      ∃ t, exec (.read 0 20) fullS = .next t ∧ t.seq.status = .ok) :=
  ⟨⟨segS_inv, segS_coherent, by decide, ends_in _ _ _ (by decide +kernel)⟩,
    fullS_inv, fullS_coherent, by decide, ends_in _ _ _ (by decide +kernel)⟩

theorem witness_ResidentCopiesStayCoherent :
    fullS.Inv ∧ fullS.coherent ∧ (Instr.read 0 20).wellFormed = true ∧
    mayDesync (.read 0 20) fullS = false ∧
    ∃ t, exec (.read 0 20) fullS = .next t ∧ t.seq.status = .ok :=
  ⟨fullS_inv, fullS_coherent, by decide, by decide, ends_in _ _ _ (by decide +kernel)⟩

theorem witness_RepeatedSegmentReadIsIdempotent :
    segS.Inv ∧ segS.mode.seg = true ∧ segS.mode.pag = false ∧
    ∃ t, exec (.read 0x000800000000 6) segS = .next t ∧ t.seq.status = .ok ∧
      t.clock ≠ BitVec.allOnes 64 := by
  obtain ⟨t, ht, h⟩ := nextWith_spec (exec (.read 0x000800000000 6) segS)
    (fun t => t.seq.status = .ok ∧ t.clock ≠ BitVec.allOnes 64) (by decide +kernel)
  exact ⟨segS_inv, by decide, by decide, t, ht, of_decide_eq_true h⟩

theorem witness_ReadKeepsRegistrations :
    (∃ t, exec (.read 0x000800000000 6) segS = .next t ∧ t.seq.status = .ok) ∧
    segS.mode.pag = false ∧ (pagS.page 0).populated = true ∧
    ∃ t, exec (.read 0 10) pagS = .next t ∧ t.seq.status = .ok :=
  ⟨ends_in _ _ _ (by decide +kernel), by decide, by decide, ends_in _ _ _ (by decide +kernel)⟩

/-- The last: a READ that finds every page resident in a valid descriptor's segment. -/
theorem witness_SuccessfulReadPaths :
    ((∃ t, exec (.read 0 6) pagS = .next t ∧ t.seq.status = .ok) ∧ (pagS.seg 0).valid = true ∧
      ∀ k < 2, (pagS.page (readPage pagS 0 0 + k)).resident = true) ∧
    (∃ t, exec (.read 0 32) (State.init tiny) = .next t ∧ t.seq.status = .ok) ∧
    (∃ t, exec (.read 0 4) segS = .next t ∧ t.seq.status = .ok) ∧
    ∃ t, exec (.read 0 10) pagS = .next t ∧ t.seq.status = .ok :=
  ⟨⟨ends_in _ _ _ (by decide +kernel), by decide, by decide⟩, ends_in _ _ _ (by decide +kernel),
    ends_in _ _ _ (by decide +kernel), ends_in _ _ _ (by decide +kernel)⟩

/-! ## Witnesses: the segment table and the page table -/

/-- In `segS` twelve bytes are free, from address 4: twelve fit, thirteen do not. -/
theorem witness_FirstFitIsTheLowestFreePlace :
    segS.Sound ∧ firstFit 12 segS = some 4 ∧ firstFit 13 segS = none :=
  ⟨segS_inv.sound, by decide +kernel, by decide +kernel⟩

theorem witness_GapsAndRegionsFillMemory : segS.Sound ∧ pagS.Sound :=
  ⟨segS_inv.sound, pagS_inv.sound⟩

theorem witness_VictimsAreOldestFirst : segS.Sound ∧ victimOrder segS = [0] :=
  ⟨segS_inv.sound, by decide +kernel⟩

theorem witness_EvictionStopsWhenEnoughIsFree : totalFree segS < 13 := by decide +kernel

theorem witness_CompactionPacksAndKeepsBytes :
    (segS.Sound ∧ segS.mode.pag = false ∧ (segS.seg 0).valid = true) ∧
    (pagS.Sound ∧ pagS.mode.pag = true) :=
  ⟨⟨segS_inv.sound, by decide, by decide⟩, pagS_inv.sound, by decide⟩

/-- The whole memory, which needs an eviction, and what is free without one. -/
theorem witness_AllocationAlwaysFindsRoom :
    segS.Sound ∧ 1 ≤ 16 ∧ 16 ≤ segS.cfg.memSize ∧ 12 ≤ totalFree segS ∧
    firstFit 12 segS = some 4 ∧ firstFit 16 segS = none :=
  ⟨segS_inv.sound, by decide, by decide, by decide +kernel, by decide +kernel,
    by decide +kernel⟩

theorem witness_FrameChoiceIsFreeElseOldest :
    (pagS.Sound ∧ ∃ g < pagS.cfg.numFrames, (pagS.frame g).resident = false) ∧
    (fullS.Sound ∧ ∀ g < fullS.cfg.numFrames, (fullS.frame g).resident = true) :=
  ⟨⟨pagS_inv.sound, by decide⟩, fullS_inv.sound, by decide⟩

/-- Page 0 is a hit; page 4 is a fault with no free frame. -/
theorem witness_EnsurePageLoadsAndStamps :
    fullS.Sound ∧ fullS.clock ≠ BitVec.allOnes 64 ∧ 4 < fullS.cfg.numVPages ∧
    (fullS.page 0).populated = true ∧ (fullS.page 0).resident = true ∧
    (fullS.page 4).populated = true ∧ (fullS.page 4).resident = false :=
  ⟨fullS_inv.sound, by decide, by decide, by decide, by decide, by decide, by decide⟩

/-- Page 7, the last, is unpopulated; then a page entry and a reverse entry that disagree. -/
theorem witness_BrokenPageTablesAreFatal :
    (7 < fullS.cfg.numVPages ∧ (fullS.page 7).populated = false) ∧
    (let s := { fullS with rpt := Sparse.set FrameEntry.empty fullS.rpt 1 ⟨true, 7, 5⟩ }
     (s.page 1).populated = true ∧ (s.page 1).resident = true ∧
      (s.frame (s.page 1).frame).owner ≠ 1 ∧
      (∀ g < s.cfg.numFrames, (s.frame g).resident = true) ∧
      (s.page (s.frame (oldestFrame s)).owner).resident = false) := by decide +kernel

/-! ## Witnesses: the other commands -/

/-- A WRITE of the last byte of memory, and one that ends one byte beyond it. -/
theorem witness_WriteStoresThePayload :
    [(7 : Byte)].length = (1 : Word32).toNat ∧ segS.fatal = false ∧
    (15 : Word32).toNat + (1 : Word32).toNat ≤ segS.cfg.memSize ∧
    segS.cfg.memSize < (16 : Word32).toNat + (1 : Word32).toNat ∧
    ({ segS with fatal := true } : State).fatal = true := by decide

/-- Index 4 is the first outside the table; a segment that ends one byte beyond the backing store; a region that ends one byte beyond the memory; a region that meets the last byte of segment 0's. -/
theorem witness_RegsegRefusesWhatBreaksInvariants :
    segS.Inv ∧ segS.fatal = false ∧ segS.cfg.numSegments ≤ (4 : BitVec 13).toNat ∧
    (1 : BitVec 13).toNat < segS.cfg.numSegments ∧
    segS.cfg.diskSize < (28 : Word32).toNat + (5 : BitVec 31).toNat ∧
    segS.cfg.memSize < (12 : Word32).toNat + segS.regionSize ⟨true, 12, 0, 5, true, 0⟩ ∧
    (∃ j < segS.cfg.numSegments, j ≠ (1 : BitVec 13).toNat ∧ (segS.seg j).valid = true ∧
      ¬ apart (3 : Word32).toNat (segS.regionSize ⟨true, 3, 0, 4, true, 0⟩)
        (segS.seg j).base.toNat (segS.regionSize (segS.seg j))) :=
  ⟨segS_inv, by decide, by decide, by decide, by decide, by decide, by decide⟩

/-- A region right above segment 0's, to the end of the memory; and a paged registration to the end of the backing store. -/
theorem witness_RegsegWritesTheDescriptor :
    (segS.Inv ∧ segS.fatal = false ∧ (3 : BitVec 13).toNat < segS.cfg.numSegments ∧
      (20 : Word32).toNat + (12 : BitVec 31).toNat ≤ segS.cfg.diskSize ∧
      (4 : Word32).toNat + segS.regionSize ⟨true, 4, 20, 12, true, 0⟩ ≤ segS.cfg.memSize ∧
      ∀ j < segS.cfg.numSegments, j ≠ (3 : BitVec 13).toNat → (segS.seg j).valid = true →
        apart (4 : Word32).toNat (segS.regionSize ⟨true, 4, 20, 12, true, 0⟩)
          (segS.seg j).base.toNat (segS.regionSize (segS.seg j))) ∧
    (pagS.Inv ∧ pagS.fatal = false ∧ pagS.mode.pag = true ∧
      (24 : Word32).toNat + (8 : BitVec 31).toNat ≤ pagS.cfg.diskSize ∧
      (8 : Word32).toNat + pagS.regionSize ⟨true, 8, 24, 8, true, 0⟩ ≤ pagS.cfg.memSize ∧
      ∀ j < pagS.cfg.numSegments, j ≠ (1 : BitVec 13).toNat → (pagS.seg j).valid = true →
        apart (8 : Word32).toNat (pagS.regionSize ⟨true, 8, 24, 8, true, 0⟩)
          (pagS.seg j).base.toNat (pagS.regionSize (pagS.seg j))) :=
  ⟨⟨segS_inv, by decide, by decide, by decide, by decide, by decide⟩,
    pagS_inv, by decide, by decide, by decide, by decide, by decide⟩

theorem witness_InvsegClearsTheValidFlag :
    segS.fatal = false ∧ segS.cfg.numSegments ≤ (4 : BitVec 13).toNat ∧
    (segS.seg (3 : BitVec 13).toNat).populated = false ∧
    (2 : BitVec 13).toNat < segS.cfg.numSegments ∧
    (segS.seg (2 : BitVec 13).toNat).populated = true ∧
    ({ segS with fatal := true } : State).fatal = true := by decide

/-- Page 8 is the first outside the table; page 7 is not resident; page 3 is. -/
theorem witness_InvpageFreesTheFrame :
    fullS.fatal = false ∧ fullS.cfg.numVPages ≤ (8 : Word32).toNat ∧
    (7 : Word32).toNat < fullS.cfg.numVPages ∧ (fullS.page (7 : Word32).toNat).resident = false ∧
    (fullS.page (3 : Word32).toNat).resident = true ∧
    ({ fullS with fatal := true } : State).fatal = true := by decide

theorem witness_ClearEmptiesTheTables :
    fullS.fatal = false ∧ ({ fullS with fatal := true } : State).fatal = true := by decide

/-- PAG = 1 with SEG = 0; a change of PAG with a registered segment; the current PAG; a change of PAG with nothing registered. -/
theorem witness_SetmodeWritesOrRefuses :
    segS.canonical ∧ segS.fatal = false ∧ (true ≠ segS.mode.pag ∧ ¬ nothingRegistered segS) ∧
    false = segS.mode.pag ∧ nothingRegistered (State.init tiny) ∧
    ({ segS with fatal := true } : State).fatal = true :=
  ⟨segS_inv.sound.canonical, by decide, by decide, by decide, by decide, by decide⟩

theorem witness_InvsegAndInvpageCommute :
    ∃ a b c d : State, exec (.invseg 0) fullS = .next a ∧ exec (.invpage 0) a = .next b ∧
      exec (.invpage 0) fullS = .next c ∧ exec (.invseg 0) c = .next d :=
  ⟨_, _, _, _, rfl, rfl, rfl, rfl⟩

/-! ## Witnesses: rules of the whole machine -/

theorem witness_MemoryChangesAreAnnounced :
    fullS.cfg.wf ∧ (Instr.read 0 20).wellFormed = true ∧
    (∃ t, exec (.read 0 20) fullS = .next t ∧ t.seq.status = .ok) ∧
    (Instr.write 15 1 [7]).wellFormed = true ∧
    ∃ t, exec (.write 15 1 [7]) fullS = .next t ∧ t.seq.status = .ok :=
  ⟨fullS_inv.sound.params, rfl, ends_in _ _ _ (by decide +kernel), by decide,
    ends_in _ _ _ (by decide +kernel)⟩

theorem witness_EventsStayInsideTheDevices :
    segS.cfg.wf ∧ (Instr.read 0x000800000000 6).wellFormed = true ∧
    ∃ t, exec (.read 0x000800000000 6) segS = .next t ∧ t.seq.status = .ok :=
  ⟨segS_inv.sound.params, rfl, ends_in _ _ _ (by decide +kernel)⟩

theorem witness_TablesAndMemoryAreApart :
    (∃ t, exec (.invpage 3) fullS = .next t ∧ t.seq.status = .ok) ∧
    (∀ la len, Instr.invpage 3 ≠ .read la len) ∧
    (∀ pa len data, Instr.invpage 3 ≠ .write pa len data) ∧
    ∃ t, exec (.write 15 1 [7]) fullS = .next t ∧ t.seq.status = .ok :=
  ⟨ends_in _ _ _ (by decide +kernel), fun _ _ => Instr.noConfusion, fun _ _ _ => Instr.noConfusion,
    ends_in _ _ _ (by decide +kernel)⟩

theorem witness_OtherCommandsRunInDecode :
    (∃ t, exec (.write 15 1 [7]) fullS = .next t ∧ t.seq.status = .ok) ∧
    (∃ t, exec (.write 16 1 [7]) fullS = .next t ∧ t.seq.status = .invalidAddress) ∧
    (Instr.write 15 1 [7]).opcode ≠ 0 :=
  ⟨ends_in _ _ _ (by decide +kernel), ends_in _ _ _ (by decide +kernel), by decide⟩

end Sys2Proof.Tests
end

/-! PROOFS. What relates every state a command passes through to the state it began in, what one step can do, and the statements about reset and about the parameters and the trace. -/

/-! ## The derived parameters of R5 -/

namespace Sys2Proof

theorem Config.pageSize_pos (c : Config) : 0 < c.pageSize := Nat.two_pow_pos c.pageBits

theorem Config.numFrames_pos {c : Config} (h : c.wf) : 0 < c.numFrames := by
  obtain ⟨hpage, -⟩ := h
  exact Nat.div_pos (Nat.pow_le_pow_right two_pos hpage) c.pageSize_pos

theorem Config.numVPages_pos {c : Config} (h : c.wf) : 0 < c.numVPages := by
  obtain ⟨-, -, hpage, -⟩ := h
  exact Nat.div_pos (Nat.pow_le_pow_right two_pos hpage) c.pageSize_pos

theorem Config.reference_wf : Config.reference.wf := by
  simp [Config.wf, Config.reference, Machine.Memory.wf, Machine.Sparse.wf]

end Sys2Proof

namespace Sys2Proof.Machine

/-! ## Relations kept by a command's work -/

/-- A preorder on states that holds across every update a command's work is made of, each field at any value but for `FATAL`, which work only sets, and the trace, which it only appends to. The parameters, the mode and the port are not among the updates. -/
structure KeptByUpdates (R : State → State → Prop) : Prop where
  refl : ∀ s, R s s
  trans : ∀ {s t u}, R s t → R t u → R s u
  seq : ∀ s q, R s { s with seq := q }
  fatal : ∀ s, R s { s with fatal := true }
  clock : ∀ s c, R s { s with clock := c }
  st : ∀ s x, R s { s with st := x }
  pt : ∀ s x, R s { s with pt := x }
  rpt : ∀ s x, R s { s with rpt := x }
  mem : ∀ s m, R s { s with mem := m }
  emit : ∀ s e, R s (s.emit e)

/-- The state in which a piece of work completes or raises its error, if it does, is related to `s`. -/
def Res.Leads {α : Type} (R : State → State → Prop) (s : State) : Res α → Prop
  | .ok _ t => R s t
  | .raised _ t => R s t
  | .exhausted => True
  | .stop _ => True

section
variable {R : State → State → Prop} {α β : Type} {s t : State}

/-- Work may be related to an earlier state than the one it begins in. -/
theorem Res.Leads.after (h : KeptByUpdates R) (hst : R s t) {r : Res α} (hr : r.Leads R t) :
    r.Leads R s := by
  cases r with
  | ok _ _ => exact h.trans hst hr
  | raised _ _ => exact h.trans hst hr
  | exhausted => trivial
  | stop _ => trivial

/-- A sequence is related to where it began when both its parts are. -/
theorem Res.Leads.bind (h : KeptByUpdates R) {r : Res α} {g : α → State → Res β}
    (hr : r.Leads R s) (hg : ∀ a u, (g a u).Leads R u) : (r.bind g).Leads R s := by
  cases r with
  | ok a u => exact (hg a u).after h hr
  | raised _ _ => exact hr
  | exhausted => trivial
  | stop _ => trivial

end

section
variable {R : State → State → Prop}

/-! ### The named updates of the state -/

section
variable (h : KeptByUpdates R) (s : State)
include h

theorem KeptByUpdates.accept (op : BitVec 4) : R s (s.accept op) := h.seq s _
theorem KeptByUpdates.latchSelector (la : LogicalAddr) : R s (s.latchSelector la) := h.seq s _
theorem KeptByUpdates.enter (q : Fsm) : R s (s.enter q) := h.seq s _
theorem KeptByUpdates.linear (lin : Nat) (len : Word32) : R s (s.linear lin len) := h.seq s _
theorem KeptByUpdates.physical (phys : Nat) : R s (s.physical phys) := h.seq s _
theorem KeptByUpdates.setResult (bytes : List Byte) : R s (s.setResult bytes) := h.seq s _
theorem KeptByUpdates.advance (lin remain : Nat) : R s (s.advance lin remain) := h.seq s _
theorem KeptByUpdates.respond (k : Status) : R s (s.respond k) := h.seq s _
theorem KeptByUpdates.setSeg (i : Nat) (d : Descriptor) : R s (s.setSeg i d) := h.st s _
theorem KeptByUpdates.setPage (v : Nat) (e : PageEntry) : R s (s.setPage v e) := h.pt s _
theorem KeptByUpdates.setFrame (f : Nat) (e : FrameEntry) : R s (s.setFrame f e) := h.rpt s _

/-- The way of an unpaged READ from its checks to ACCESS (R128, R129). -/
theorem KeptByUpdates.accessed (lin phys : Nat) (len : Word32) :
    R s (((s.linear lin len).physical phys).enter .access) := h.seq s _

end

/-! ### Access primitives and stamps -/

theorem raiseFatal_leads {α : Type} (h : KeptByUpdates R) (s : State) :
    (raiseFatal s : Res α).Leads R s := h.fatal s

theorem memRead_leads (h : KeptByUpdates R) (addr n : Nat) (s : State) :
    (memRead addr n s).Leads R s := by
  unfold memRead
  split
  · trivial
  · exact h.refl s

theorem memWrite_leads (h : KeptByUpdates R) (addr : Nat) (v : List Byte) (s : State) :
    (memWrite addr v s).Leads R s := by
  unfold memWrite
  split
  · trivial
  split
  · exact h.refl s
  · exact h.trans (h.mem s _) (h.emit _ _)

theorem diskRead_leads (h : KeptByUpdates R) (off n : Nat) (s : State) :
    (diskRead off n s).Leads R s := by
  unfold diskRead
  split
  · trivial
  · exact h.emit s _

theorem stamp_leads (h : KeptByUpdates R) (s : State) : (stamp s).Leads R s := by
  unfold stamp
  split
  · trivial
  · exact h.clock s _

theorem stampSegment_leads (h : KeptByUpdates R) (i : Nat) (s : State) :
    (stampSegment i s).Leads R s :=
  (stamp_leads h s).bind h fun _ u => h.st u _

theorem stampFrame_leads (h : KeptByUpdates R) (f : Nat) (s : State) :
    (stampFrame f s).Leads R s :=
  (stamp_leads h s).bind h fun _ u => h.rpt u _

/-! ### The segment table -/

theorem slideTo_leads (h : KeptByUpdates R) (i cur : Nat) (s : State) :
    (slideTo i cur s).Leads R s := by
  unfold slideTo
  dsimp only
  split
  · exact h.refl s
  split
  · exact (memRead_leads h _ _ s).bind h fun _ u =>
      (memWrite_leads h _ _ u).bind h fun _ w => h.st w _
  · exact h.st s _

theorem compactFrom_leads (h : KeptByUpdates R) (order : List Nat) (cur : Nat) (s : State) :
    (compactFrom order cur s).Leads R s := by
  induction order generalizing cur s with
  | nil => exact h.refl s
  | cons i rest ih => exact (slideTo_leads h i cur s).bind h fun _ u => ih _ u

theorem allocate_leads (h : KeptByUpdates R) (size : Nat) (s : State) :
    (allocate size s).Leads R s := by
  unfold allocate
  split
  · exact h.refl s
  have evicted : R s (if size ≤ totalFree s then s else evictUntil size (victimOrder s) s) := by
    split
    · exact h.refl s
    · rw [evictUntil_frame]; exact h.st s _
  refine Res.Leads.after h evicted ((compactFrom_leads h _ _ _).bind h fun _ u => ?_)
  split
  · exact h.refl u
  · trivial

theorem allocateChecked_leads (h : KeptByUpdates R) (size : Nat) (s : State) :
    (allocateChecked size s).Leads R s := by
  unfold allocateChecked
  split
  · exact h.refl s
  · exact allocate_leads h size s

theorem segmentLoad_leads (h : KeptByUpdates R) (i : Nat) (s : State) :
    (segmentLoad i s).Leads R s := by
  unfold segmentLoad
  exact (allocateChecked_leads h _ s).bind h fun _ u => (diskRead_leads h _ _ u).bind h fun _ w =>
    (memWrite_leads h _ _ w).bind h fun _ x => h.st x _

/-! ### The page table -/

theorem evictPage_leads (h : KeptByUpdates R) (f : Nat) (s : State) :
    (evictPage f s).Leads R s := by
  unfold evictPage
  dsimp only
  split
  · exact raiseFatal_leads h s
  · exact h.trans (h.setPage s _ _) (h.setFrame _ _ _)

theorem chooseFrame_leads (h : KeptByUpdates R) (s : State) : (chooseFrame s).Leads R s := by
  unfold chooseFrame
  split
  · exact h.refl s
  · exact (evictPage_leads h _ s).bind h fun _ u => h.refl u

theorem pageLookup_leads (h : KeptByUpdates R) (v : Nat) (s : State) :
    (pageLookup v s).Leads R s := by
  unfold pageLookup
  dsimp only
  split
  · exact h.refl s
  split
  · exact raiseFatal_leads h s
  split
  · exact h.refl s
  split
  · exact raiseFatal_leads h s
  · exact h.refl s

theorem pageFault_leads (h : KeptByUpdates R) (v : Nat) (s : State) :
    (pageFault v s).Leads R s := by
  unfold pageFault
  exact (chooseFrame_leads h s).bind h fun _ u => (diskRead_leads h _ _ u).bind h fun _ w =>
    (memWrite_leads h _ _ w).bind h fun _ x => h.trans (h.setPage x _ _) (h.setFrame _ _ _)

theorem ensurePage_leads (h : KeptByUpdates R) (visit : Bool) (v : Nat) (s : State) :
    (ensurePage visit v s).Leads R s := by
  unfold ensurePage
  refine (pageLookup_leads h v s).bind h fun found u => ?_
  refine Res.Leads.bind h ?_ fun f w => (stampFrame_leads h f w).bind h fun _ x => h.refl x
  cases found with
  | some f => exact h.refl u
  | none =>
    cases visit with
    | true => exact (pageFault_leads h v _).after h (h.enter u _)
    | false => exact pageFault_leads h v u

theorem populatePages_leads (h : KeptByUpdates R) (v n : Nat) (s : State) :
    (populatePages v n s).Leads R s := by
  unfold populatePages
  split
  · trivial
  · exact h.pt s _

theorem loadPages_leads (h : KeptByUpdates R) (n v : Nat) (s : State) :
    (loadPages n v s).Leads R s := by
  induction n generalizing v s with
  | zero => exact h.refl s
  | succ n ih => exact (ensurePage_leads h false v s).bind h fun _ u => ih _ u

theorem segmentRegister_leads (h : KeptByUpdates R) (i : Nat) (s : State) :
    (segmentRegister i s).Leads R s := by
  unfold segmentRegister
  refine (allocateChecked_leads h _ s).bind h fun a u => ?_
  refine Res.Leads.after h (h.setSeg u i { u.seg i with base := toReg32 a }) ?_
  exact (populatePages_leads h _ _ _).bind h fun _ w =>
    (loadPages_leads h _ _ w).bind h fun _ x => h.setSeg x _ _

/-! ### READ -/

theorem readReal_leads (h : KeptByUpdates R) (off len : Word32) (s : State) :
    (readReal off len s).Leads R s := by
  unfold readReal
  split
  · exact h.refl s
  have computed := h.accessed s off.toNat off.toNat len
  dsimp only
  split
  · exact h.trans computed (h.setResult _ _)
  · refine Res.Leads.after h computed ((diskRead_leads h _ _ _).bind h fun _ u => ?_)
    exact h.setResult u _

theorem segmentChecks_leads (h : KeptByUpdates R) (sel : Nat) (off len : Word32) (s : State) :
    (segmentChecks sel off len s).Leads R s := by
  unfold segmentChecks
  repeat' split
  all_goals exact h.refl s

theorem segmentPhase_leads (h : KeptByUpdates R) (sel : Nat) (s : State) :
    (segmentPhase sel s).Leads R s := by
  unfold segmentPhase segmentFault
  split
  · exact stampSegment_leads h sel s
  refine Res.Leads.after h (h.enter s .segmentFault)
    (Res.Leads.bind h ?_ fun _ u => stampSegment_leads h sel u)
  split
  · exact segmentRegister_leads h sel _
  · exact segmentLoad_leads h sel _

theorem readSegment_leads (h : KeptByUpdates R) (sel : Nat) (off len : Word32) (s : State) :
    (readSegment sel off len s).Leads R s := by
  unfold readSegment
  refine Res.Leads.after h (h.accessed s _ _ _) ((memRead_leads h _ _ _).bind h fun _ u => ?_)
  exact h.setResult u _

theorem readChunk_leads (h : KeptByUpdates R) (lin c : Nat) (s : State) :
    (readChunk lin c s).Leads R s := by
  unfold readChunk
  dsimp only
  refine Res.Leads.after h ?lookup ((ensurePage_leads h true _ _).bind h fun _ u => ?_)
  case lookup => exact h.seq s _
  refine Res.Leads.after h ?access ((memRead_leads h _ _ _).bind h fun _ w => ?_)
  case access => exact h.seq u _
  exact h.setResult w _

theorem readChunks_leads (h : KeptByUpdates R) (turns lin remain : Nat) (s : State) :
    (readChunks turns lin remain s).Leads R s := by
  induction turns generalizing lin remain s with
  | zero => exact h.refl s
  | succ turns ih =>
    unfold readChunks
    split
    · exact h.refl s
    · exact (readChunk_leads h _ _ s).bind h fun _ u => (ih _ _ _).after h (h.advance u _ _)

theorem readPaged_leads (h : KeptByUpdates R) (sel : Nat) (off len : Word32) (s : State) :
    (readPaged sel off len s).Leads R s := by
  unfold readPaged
  exact (readChunks_leads h _ _ _ _).after h (h.trans (h.linear s _ _) (h.setResult _ _))

theorem readTranslated_leads (h : KeptByUpdates R) (sel : Nat) (off len : Word32) (s : State) :
    (readTranslated sel off len s).Leads R s := by
  unfold readTranslated
  refine Res.Leads.after h (h.enter s .segmentLookup) ?_
  refine (segmentChecks_leads h sel off len _).bind h fun _ u =>
    (segmentPhase_leads h sel u).bind h fun _ w => ?_
  split
  · exact readPaged_leads h sel off len w
  · exact readSegment_leads h sel off len w

theorem readWork_leads (h : KeptByUpdates R) (la : LogicalAddr) (len : Word32) (s : State) :
    (readWork la len s).Leads R s := by
  unfold readWork
  refine Res.Leads.after h (h.latchSelector s la) ?_
  dsimp only
  split
  · exact readTranslated_leads h _ _ _ _
  · exact readReal_leads h _ _ _

/-! ### The other commands -/

theorem writeWork_leads (h : KeptByUpdates R) (pa len : Word32) (data : List Byte) (s : State) :
    (writeWork pa len data s).Leads R s := by
  unfold writeWork
  split
  · exact h.refl s
  · exact (memWrite_leads h _ _ _).after h (h.enter s _)

theorem regsegChecks_leads (h : KeptByUpdates R) (index : Nat) (d : Descriptor) (s : State) :
    (regsegChecks index d s).Leads R s := by
  unfold regsegChecks
  repeat' split
  all_goals exact h.refl s

theorem regsegWork_leads (h : KeptByUpdates R) (index : Nat) (d : Descriptor) (s : State) :
    (regsegWork index d s).Leads R s := by
  unfold regsegWork regsegPopulate
  refine (regsegChecks_leads h index d s).bind h fun _ u =>
    Res.Leads.after h (h.setSeg u index d) ?_
  split
  · exact populatePages_leads h _ _ _
  · exact h.refl _

theorem invsegWork_leads (h : KeptByUpdates R) (index : Nat) (s : State) :
    (invsegWork index s).Leads R s := by
  unfold invsegWork
  split
  · exact h.refl s
  · exact h.st s _

theorem invpageWork_leads (h : KeptByUpdates R) (v : Nat) (s : State) :
    (invpageWork v s).Leads R s := by
  unfold invpageWork
  split
  · exact h.refl s
  split
  · exact h.trans (h.setFrame s _ _) (h.setPage _ _ _)
  · exact h.refl s

theorem clearWork_leads (h : KeptByUpdates R) (s : State) : (clearWork s).Leads R s :=
  h.trans (h.st s []) (h.trans (h.pt _ []) (h.trans (h.rpt _ []) (h.clock _ 0)))

/-- SETMODE is the one command that writes MODE, and it writes legal values alone (R29, R230). -/
theorem setmodeWork_leads (h : KeptByUpdates R)
    (hmode : ∀ s m, Mode.legal m → R s { s with mode := m }) (seg pag : Bool) (s : State) :
    (setmodeWork seg pag s).Leads R s := by
  unfold setmodeWork
  split
  · exact h.refl s
  next hlegal =>
    split
    · exact h.refl s
    · exact hmode s ⟨seg, pag⟩ fun hp => by simpa [show pag = true from hp] using hlegal

/-! ### Whole commands -/

theorem runCommand_leads (h : KeptByUpdates R) {op : BitVec 4} {latch : State → State}
    {work : State → Res Unit} {s t : State} (hlatch : ∀ u, R u (latch u))
    (hwork : ∀ u, (work u).Leads R u) (ht : runCommand op latch work s = .next t) : R s t := by
  have entry : R s (latch (s.accept op)) := h.trans (h.accept s op) (hlatch _)
  have gated : ((fatalGate (latch (s.accept op))).bind fun _ u => work u).Leads R s := by
    refine Res.Leads.after h entry (Res.Leads.bind h ?_ fun _ u => hwork u)
    unfold fatalGate
    split
    · exact h.refl _
    · exact h.refl _
  rcases (Res.finish_eq_next _ _ t).1 ht with ⟨u, hr, rfl⟩ | ⟨k, u, hr, rfl⟩ | ⟨-, rfl⟩
  · rw [hr] at gated
    exact h.trans gated (h.respond u _)
  · rw [hr] at gated
    exact h.trans gated (h.respond u _)
  · exact h.trans entry (h.trans (h.fatal _) (h.respond _ _))

theorem execReserved_leads (h : KeptByUpdates R) {op : BitVec 4} {s t : State}
    (ht : execReserved op s = .next t) : R s t :=
  runCommand_leads h h.refl (work := fun s => .raised .badRequest s) h.refl ht

/-- Every command's next state is related to the state it began in. -/
theorem exec_leads (h : KeptByUpdates R)
    (hmode : ∀ s m, Mode.legal m → R s { s with mode := m }) {i : Instr} {s t : State}
    (ht : exec i s = .next t) : R s t := by
  cases i with
  | read la len => exact runCommand_leads h (fun u => h.seq u _) (readWork_leads h la len) ht
  | write pa len data =>
    exact runCommand_leads h (fun u => h.seq u _) (writeWork_leads h pa len data) ht
  | regseg index base diskBase limit valid =>
    exact runCommand_leads h h.refl (regsegWork_leads h _ _) ht
  | invseg index => exact runCommand_leads h h.refl (invsegWork_leads h _) ht
  | invpage vpn => exact runCommand_leads h h.refl (invpageWork_leads h _) ht
  | clear => exact runCommand_leads h h.refl (clearWork_leads h) ht
  | setmode seg pag => exact runCommand_leads h h.refl (setmodeWork_leads h hmode seg pag) ht

end

/-! ## What one step can do -/

/-- A port sequence that starts with no command answers a next state exactly where the step waits or the word's opcode is reserved (R105, R273). -/
theorem answerReject_eq_next (e : Reject) (s t : State) : answerReject e s = .next t ↔
    (t = s ∧ (e = .noCommand ∨ e = .payloadPending)) ∨
      ∃ op, e = .reservedOpcode op ∧
        execReserved op { s with input := s.input.drop 1 } = .next t := by
  cases e <;> simp [answerReject, eq_comm]

/-- What stands at the front of the port is a command that runs, or it starts none and is answered (R96, R98). -/
theorem acceptCommand_eq_next (s t : State) : acceptCommand s = .next t ↔
    (∃ i rest, decode s.input = .ok (i, rest) ∧ exec i { s with input := rest } = .next t) ∨
      ∃ e, decode s.input = .error e ∧ answerReject e s = .next t := by
  unfold acceptCommand
  rcases decode s.input with e | ⟨i, rest⟩
  · simp
  · simp

/-- A step answers a next state only in IDLE, and there it waits while nothing is presented, takes the reset event, or turns to the word or byte at the front of the port (R27, R270, R273). -/
theorem step_eq_next (s t : State) : step s = .next t ↔ s.seq.fsm = .idle ∧
    ((s.input = [] ∧ t = s) ∨ (∃ rest, s.input = .reset :: rest ∧ t = resetEvent s rest) ∨
      (s.input ≠ [] ∧ s.input.head? ≠ some .reset ∧ acceptCommand s = .next t)) := by
  unfold step portTurn
  by_cases hidle : s.seq.fsm = .idle
  · have hbusy : s.busy = false := by simp [State.busy, hidle]
    rcases hin : s.input with _ | ⟨_ | _ | _, rest⟩
    case nil => simp [hbusy, hidle, eq_comm]
    case cons.word w => simp [hbusy, hidle]
    case cons.byte b => simp [hbusy, hidle]
    case cons.reset => simp [hbusy, hidle, eq_comm]
  · have hbusy : s.busy = true := by simp [State.busy, hidle]
    simp [hbusy, hidle]

/-- A step relates its two states, or it takes the reset event. -/
theorem step_leads {R : State → State → Prop} (h : KeptByUpdates R)
    (hmode : ∀ s m, Mode.legal m → R s { s with mode := m })
    (hinput : ∀ s items, R s { s with input := items }) {s t : State} (ht : step s = .next t) :
    R s t ∨ ∃ rest, s.input = .reset :: rest ∧ t = resetEvent s rest := by
  obtain ⟨-, ⟨-, rfl⟩ | hreset | ⟨-, -, haccept⟩⟩ := (step_eq_next s t).1 ht
  · exact .inl (h.refl t)
  · exact .inr hreset
  left
  obtain ⟨i, rest, -, hexec⟩ | ⟨e, -, hreject⟩ := (acceptCommand_eq_next s t).1 haccept
  · exact h.trans (hinput s rest) (exec_leads h hmode hexec)
  obtain ⟨rfl, -⟩ | ⟨op, -, hexec⟩ := (answerReject_eq_next e s t).1 hreject
  · exact h.refl t
  · exact h.trans (hinput s _) (execReserved_leads h hexec)

/-! ## Parameters and trace -/

/-- The parameters are those of `s`, and the trace is that of `s` with events appended (R5, R11). -/
structure State.ExtendedBy (s t : State) : Prop where
  cfg : t.cfg = s.cfg
  trace : ∃ events, t.trace = s.trace ++ events

theorem State.ExtendedBy.of_eq {s t : State} (hc : t.cfg = s.cfg) (ht : t.trace = s.trace) :
    s.ExtendedBy t := ⟨hc, [], by simp [ht]⟩

theorem extendedBy_keptByUpdates : KeptByUpdates State.ExtendedBy where
  refl _ := .of_eq rfl rfl
  trans := by
    rintro s t u ⟨hc, es, ht⟩ ⟨hc', es', ht'⟩
    exact ⟨hc'.trans hc, es ++ es', by rw [ht', ht, List.append_assoc]⟩
  seq _ _ := .of_eq rfl rfl
  fatal _ := .of_eq rfl rfl
  clock _ _ := .of_eq rfl rfl
  st _ _ := .of_eq rfl rfl
  pt _ _ := .of_eq rfl rfl
  rpt _ _ := .of_eq rfl rfl
  mem _ _ := .of_eq rfl rfl
  emit _ e := ⟨rfl, [e], rfl⟩

/-- Settles O4: every update of a command's work keeps the parameters and extends the trace, and the reset event keeps the parameters. -/
theorem stepKeepsParametersAndExtendsTrace :
    Obligations.StepKeepsParametersAndExtendsTrace := by
  intro s t hstep
  obtain ⟨hcfg, htrace⟩ | ⟨rest, hin, rfl⟩ := step_leads extendedBy_keptByUpdates
    (fun _ _ _ => .of_eq rfl rfl) (fun _ _ => .of_eq rfl rfl) hstep
  · exact ⟨hcfg, .inr htrace⟩
  · exact ⟨rfl, .inl (by rw [hin]; rfl)⟩

/-! ## Reset -/

/-- Nothing is listed in a table after reset, and the memory lists what `MEM_INIT` lists (R47, R272). -/
theorem State.init_canonical {c : Config} (h : c.wf) : (State.init c).canonical := by
  obtain ⟨-, -, -, -, -, -, -, -, hmem, hinside⟩ := h
  exact ⟨by simp [State.init, Sparse.wf], by simp [State.init, Sparse.wf],
    by simp [State.init, Sparse.wf], hmem, hinside⟩

/-- After reset no descriptor is valid or populated and no page or frame is resident, so the invariants of the tables ask nothing but the widths of the fields. -/
theorem State.init_sound {c : Config} (h : c.wf) : (State.init c).Sound where
  params := h
  canonical := State.init_canonical h
  mode := nofun
  seg := nofun
  page := ⟨nofun, nofun⟩
  disk := nofun
  pop := nofun
  fields := ⟨fun _ _ => ⟨nofun, BitVec.le_refl 0⟩, fun _ _ => Config.numFrames_pos h,
    fun _ _ => ⟨Config.numVPages_pos h, BitVec.le_refl 0⟩⟩
  fatal := nofun

theorem State.init_inv {c : Config} (h : c.wf) : (State.init c).Inv where
  sound := State.init_sound h
  idle := rfl
  registers := ⟨Config.numVPages_pos h, c.pageSize_pos, Config.numFrames_pos h⟩

/-- Nothing is resident after reset, so nothing resident differs from its source. -/
theorem State.init_coherent (c : Config) : (State.init c).coherent :=
  ⟨nofun, fun _ => ⟨fun _ _ => rfl, nofun⟩⟩

/-- Settles O2: the invariant and coherence hold of the empty tables, and the memory is `MEM_INIT` itself. -/
theorem invariantHoldsAtReset : Obligations.InvariantHoldsAtReset :=
  ⟨fun c h => ⟨State.init_inv h, State.init_coherent c, fun _ => rfl⟩, rfl,
    State.init_inv Config.reference_wf⟩

end Sys2Proof.Machine

/-! PROOFS. The port, FATAL and errors, the frame of a READ, the announcement of memory changes, and the machine's invariant under every step. -/

/-! ## What the decoder reads -/

namespace Sys2Proof

/-- The payload taken off the port is its next `n` items, all bytes (R98). -/
theorem takePayload_eq_ok (n : Nat) (port rest : List Input) (bs : List Byte) :
    takePayload n port = .ok (bs, rest) ↔ bs.length = n ∧ port = bs.map .byte ++ rest := by
  induction n generalizing port bs with
  | zero => cases bs <;> simp [takePayload]
  | succ n ih =>
    rcases port with _ | ⟨_ | b | _, port⟩
    case nil => cases bs <;> simp [takePayload]
    case cons.word => cases bs <;> simp [takePayload]
    case cons.reset => cases bs <;> simp [takePayload]
    case cons.byte =>
      rcases h : takePayload n port with e | ⟨bs', rest'⟩
      · cases bs with
        | nil => simp [takePayload, h]
        | cons b' bs =>
          have short := ih port bs
          simp only [h, reduceCtorEq, false_iff, not_and] at short
          simp only [takePayload, h, reduceCtorEq, false_iff, List.length_cons, List.map_cons,
            List.cons_append, List.cons.injEq, Input.byte.injEq, not_and]
          exact fun hlen _ => short (by omega)
      · cases bs with
        | nil => simp [takePayload, h]
        | cons b' bs =>
          have taken := ih port bs
          simp only [h, Except.ok.injEq, Prod.mk.injEq] at taken
          simp [takePayload, h, and_assoc, taken, and_left_comm]

/-- WRITE is read with as many payload bytes as its length says (R98). -/
theorem decodeWrite_wellFormed {w : CmdWord} {port rest : List Input} {i : Instr}
    (h : decodeWrite w port = .ok (i, rest)) : i.wellFormed = true := by
  unfold decodeWrite at h
  split at h
  next bs rest' htake =>
    obtain ⟨rfl, rfl⟩ := Prod.mk.inj (Except.ok.inj h)
    simpa [Instr.wellFormed] using ((takePayload_eq_ok _ _ _ _).1 htake).1
  next => nomatch h

/-- The command a word starts is well-formed: every operand but WRITE's payload is bounded by its type. -/
theorem decodeWord_wellFormed {w : CmdWord} {port rest : List Input} {i : Instr}
    (h : decodeWord w port = .ok (i, rest)) : i.wellFormed = true := by
  unfold decodeWord at h
  by_cases hwrite : opOf w = 1
  · rw [if_neg (by simp [hwrite]), if_pos hwrite] at h
    exact decodeWrite_wellFormed h
  · rw [if_neg hwrite] at h
    split_ifs at h
    all_goals
      obtain ⟨rfl, rfl⟩ := Prod.mk.inj (Except.ok.inj h)
      rfl

/-- What the decoder reads is well-formed (R98, R108). -/
theorem decode_wellFormed {port rest : List Input} {i : Instr} (h : decode port = .ok (i, rest)) :
    i.wellFormed = true := by
  rcases port with _ | ⟨w | _ | _, port⟩
  case nil => nomatch h
  case cons.word => exact decodeWord_wellFormed h
  case cons.byte => nomatch h
  case cons.reset => nomatch h

/-- A command the decoder reads has its word at the front of the port, and neither nothing nor the reset event stands there. -/
theorem decode_eq_ok_front {port rest : List Input} {i : Instr} (h : decode port = .ok (i, rest)) :
    port ≠ [] ∧ port.head? ≠ some .reset := by
  rcases port with _ | ⟨_ | _ | _, port⟩
  case nil => nomatch h
  case cons.word => simp
  case cons.byte => nomatch h
  case cons.reset => nomatch h

end Sys2Proof

namespace Sys2Proof.Machine

/-! ## The port -/

theorem step_of_busy {s : State} (h : s.seq.fsm ≠ .idle) : step s = .refused .busy := by
  simp [step, portTurn, State.busy, h]

/-- In IDLE, a step on anything but the empty port and the reset event turns to what stands there (R27). -/
theorem step_eq_acceptCommand {s : State} (hidle : s.seq.fsm = .idle) (hne : s.input ≠ [])
    (hreset : s.input.head? ≠ some .reset) : step s = acceptCommand s := by
  have hbusy : s.busy = false := by simp [State.busy, hidle]
  rcases hin : s.input with _ | ⟨_ | _ | _, rest⟩
  case nil => exact absurd hin hne
  case cons.word w => simp [step, portTurn, hbusy, hin]
  case cons.byte b => simp [step, portTurn, hbusy, hin]
  case cons.reset => simp [hin] at hreset

/-- In IDLE, a step on a port that starts with no command answers the reason (R105, R273). -/
theorem step_of_reject {s : State} {e : Reject} (hidle : s.seq.fsm = .idle)
    (h : decode s.input = .error e) (he : e ≠ .noCommand) : step s = answerReject e s := by
  have front : s.input ≠ [] ∧ s.input.head? ≠ some .reset := by
    rcases hin : s.input with _ | ⟨_ | _ | _, rest⟩
    case nil => rw [hin] at h; exact absurd (Except.error.inj h).symm he
    case cons.word => simp
    case cons.byte => simp
    case cons.reset => rw [hin] at h; exact absurd (Except.error.inj h).symm he
  rw [step_eq_acceptCommand hidle front.1 front.2, acceptCommand, h]

/-- In IDLE, a step is the meaning of the command the decoder reads, its word and payload off the port (R27, R96). -/
theorem step_of_decode {s : State} {i : Instr} {rest : List Input} (hidle : s.seq.fsm = .idle)
    (h : decode s.input = .ok (i, rest)) : step s = exec i { s with input := rest } := by
  obtain ⟨hne, hreset⟩ := decode_eq_ok_front h
  rw [step_eq_acceptCommand hidle hne hreset, acceptCommand, h]

/-- Settles O12: what the decoder reads is well-formed, and the step runs it. -/
theorem stepRunsTheDecodedCommand : Obligations.StepRunsTheDecodedCommand :=
  fun _ _ _ hidle h => ⟨decode_wellFormed h, step_of_decode hidle h⟩

/-- Settles O14: one clause for each thing but a command that can stand on the port. -/
theorem portWaitsResetsAndRefuses : Obligations.PortWaitsResetsAndRefuses := by
  refine ⟨fun s hidle hin => ?empty, fun s rest hidle hin => ?reset,
    fun s hidle h => step_of_reject hidle h nofun, fun s hidle h => step_of_reject hidle h nofun,
    fun s h => step_of_busy h, fun s b rest hidle hin => ?stray⟩
  case empty => exact (step_eq_next s s).2 ⟨hidle, .inl ⟨hin, rfl⟩⟩
  case reset => exact (step_eq_next s _).2 ⟨hidle, .inr (.inl ⟨rest, hin, rfl⟩)⟩
  case stray => exact step_of_reject (e := .strayByte) hidle (by rw [hin]; rfl) nofun

/-! ## The legal mode -/

theorem legalMode_keptByUpdates :
    KeptByUpdates fun s t : State => s.mode.legal → t.mode.legal where
  refl _ := id
  trans h h' := h' ∘ h
  seq _ _ := id
  fatal _ := id
  clock _ _ := id
  st _ _ := id
  pt _ _ := id
  rpt _ _ := id
  mem _ _ := id
  emit _ _ := id

/-- SETMODE refuses PAG = 1 with SEG = 0 and changes nothing (R29, R232). -/
theorem setmode_illegal_refused {s : State} (h : s.fatal = false) :
    endsUnchanged (exec (.setmode false true) s) s .badRequest :=
  ⟨((s.accept 6).respond .badRequest).seq, runCommand_work 6 id _ s h, rfl, rfl⟩

/-- Settles O5: SETMODE alone writes MODE, it writes legal values alone, and reset writes a legal one. -/
theorem pagingImpliesSegmentation : Obligations.PagingImpliesSegmentation := by
  refine ⟨fun _ => nofun, fun s h => setmode_illegal_refused h, fun s t hlegal hstep => ?_⟩
  obtain h | ⟨rest, -, rfl⟩ := step_leads legalMode_keptByUpdates (fun _ _ h _ => h)
    (fun _ _ => id) hstep
  · exact h hlegal
  · nofun

end Sys2Proof.Machine

namespace Sys2Proof.Machine

/-! ## What a READ does to the state, update by update -/

/-- Relations that a READ with selector `sel` keeps, by the updates its work is made of: `R` from where a piece of work begins to where it completes, `E k` to where it raises the error `k`. A READ writes a descriptor's base, valid flag and timestamp alone, and the page tables in paged mode alone. -/
structure KeptByRead (sel : Nat) (R : State → State → Prop) (E : Status → State → State → Prop) :
    Prop where
  refl : ∀ s, R s s
  trans : ∀ {s t u}, R s t → R t u → R s u
  after : ∀ {k s t u}, R s t → E k t u → E k s u
  mode : ∀ {s t}, R s t → t.mode = s.mode
  error : ∀ s k, k ≠ .internalConsistency → E k s s
  gate : ∀ s, s.fatal = true → E .internalConsistency s s
  fatal : ∀ s, E .internalConsistency s { s with fatal := true }
  answer : ∀ {k s t} q, E k s t → E k s { t with seq := q }
  seq : ∀ s q, R s { s with seq := q }
  clock : ∀ s c, R s { s with clock := c }
  region : ∀ s i b v, R s (s.setSeg i { s.seg i with base := b, valid := v })
  ts : ∀ s n, R s (s.setSeg sel { s.seg sel with ts := n })
  page : ∀ s v f r, s.mode.pag = true →
    R s (s.setPage v { s.page v with frame := f, resident := r })
  frame : ∀ s f e, s.mode.pag = true → R s (s.setFrame f e)
  populate : ∀ {s t v n}, s.mode.pag = true → populatePages v n s = .ok () t → R s t
  write : ∀ {s t a v}, v.length < 2 ^ 32 ∨ v.length = s.cfg.pageSize →
    memWrite a v s = .ok () t → R s t
  bsRead : ∀ s off n, R s (s.emit (.bsRead off n))

/-- The state in which a piece of work completes is `R`-related to `s`, the one in which it raises an error `k` is `E k`-related to it. -/
def Res.Ends {α : Type} (R : State → State → Prop) (E : Status → State → State → Prop) (s : State) :
    Res α → Prop
  | .ok _ t => R s t
  | .raised k t => E k s t
  | .exhausted => True
  | .stop _ => True

section
variable {sel : Nat} {R : State → State → Prop} {E : Status → State → State → Prop}

section
variable {α β : Type} {s t : State}

theorem Res.Ends.after (h : KeptByRead sel R E) (hst : R s t) {r : Res α} (hr : r.Ends R E t) :
    r.Ends R E s := by
  cases r with
  | ok _ _ => exact h.trans hst hr
  | raised _ _ => exact h.after hst hr
  | exhausted => trivial
  | stop _ => trivial

/-- A sequence is related to where it began when both its parts are; the second may use that the first was. -/
theorem Res.Ends.bind (h : KeptByRead sel R E) {r : Res α} {g : α → State → Res β}
    (hr : r.Ends R E s) (hg : ∀ a u, R s u → (g a u).Ends R E u) : (r.bind g).Ends R E s := by
  cases r with
  | ok a u => exact (hg a u hr).after h hr
  | raised _ _ => exact hr
  | exhausted => trivial
  | stop _ => trivial

theorem KeptByRead.pag (h : KeptByRead sel R E) (hst : R s t) (hp : s.mode.pag = true) :
    t.mode.pag = true := by rw [h.mode hst]; exact hp

end

theorem KeptByRead.respond (h : KeptByRead sel R E) {k : Status} {s t : State} (k' : Status)
    (hst : E k s t) : E k s (t.respond k') :=
  (h.answer (t.respond k').seq hst :)

/-! ### Access primitives and stamps -/

theorem memRead_ends (h : KeptByRead sel R E) (addr n : Nat) (s : State) :
    (memRead addr n s).Ends R E s := by
  unfold memRead
  split
  · trivial
  · exact h.refl s

theorem memWrite_ends (h : KeptByRead sel R E) (addr : Nat) (v : List Byte) (s : State)
    (hv : v.length < 2 ^ 32 ∨ v.length = s.cfg.pageSize) : (memWrite addr v s).Ends R E s := by
  cases hw : memWrite addr v s with
  | ok _ t => exact h.write hv hw
  | raised k t => exact absurd hw (memWrite_ne_raised _ _ _ _ _)
  | exhausted => trivial
  | stop _ => trivial

theorem diskRead_ends (h : KeptByRead sel R E) (off n : Nat) (s : State) :
    (diskRead off n s).Ends R E s := by
  unfold diskRead
  split
  · trivial
  · exact h.bsRead s _ _

/-- `MemWrite` of what `DiskRead` answers. -/
theorem diskRead_memWrite_ends {α : Type} (h : KeptByRead sel R E) (off n : Nat) (s : State)
    {addr : State → Nat} {g : State → Res α} (hn : n < 2 ^ 32 ∨ n = s.cfg.pageSize)
    (hg : ∀ u, R s u → (g u).Ends R E u) :
    ((diskRead off n s).bind fun bytes u => (memWrite (addr u) bytes u).bind fun _ w => g w).Ends
      R E s := by
  unfold diskRead
  split
  · trivial
  · refine Res.Ends.after h (h.bsRead s (toReg32 off) (toReg32 n)) ?_
    refine (memWrite_ends h _ _ _ (by simpa using hn)).bind h fun _ w hw => ?_
    exact hg w (h.trans (h.bsRead s _ _) hw)

theorem stampSegment_ends (h : KeptByRead sel R E) (s : State) :
    (stampSegment sel s).Ends R E s := by
  unfold stampSegment stamp
  split
  · trivial
  · exact h.trans (h.clock s _) (h.ts _ _)

theorem stampFrame_ends (h : KeptByRead sel R E) (f : Nat) (s : State) (hp : s.mode.pag = true) :
    (stampFrame f s).Ends R E s := by
  unfold stampFrame stamp
  split
  · trivial
  · exact h.trans (h.clock s _) (h.frame _ f _ hp)

/-! ### The segment table -/

/-- Outside paged mode a descriptor's region has as many bytes as its limit says (R10). -/
theorem State.regionSize_of_not_pag {s : State} (h : s.mode.pag = false) (d : Descriptor) :
    s.regionSize d = d.limit.toNat := by simp [State.regionSize, Sys2Proof.Machine.regionSize, h]

theorem slideTo_ends (h : KeptByRead sel R E) (i cur : Nat) (s : State) :
    (slideTo i cur s).Ends R E s := by
  cases hs : slideTo i cur s with
  | ok e t =>
    obtain ⟨-, rfl⟩ | ⟨-, -, rfl⟩ | ⟨-, ⟨hp, hr⟩, -, hcur, rfl⟩ := (slideTo_eq_ok i cur s t e).1 hs
    · exact h.refl t
    · exact h.region s i _ (s.seg i).valid
    · refine h.trans (h.write (a := cur) (v := Memory.readRange s.mem (s.seg i).base.toNat
        (s.regionSize (s.seg i))) (.inl ?_) ((memWrite_eq_ok _ _ s _ ()).2 ⟨?_, rfl⟩)) ?_
      · have := (s.seg i).limit.isLt
        rw [Memory.length_readRange, State.regionSize_of_not_pag hp]
        omega
      · rwa [Memory.length_readRange]
      · rw [if_neg (by simp [← List.length_eq_zero_iff]; omega), Memory.length_readRange]
        exact h.region _ i _ (s.seg i).valid
  | raised k t =>
    unfold slideTo at hs
    simp only [] at hs
    split_ifs at hs
    simp only [Res.bind_eq_raised, memRead_ne_raised, memWrite_ne_raised, reduceCtorEq,
      and_false, exists_false, or_false] at hs
  | exhausted => trivial
  | stop _ => trivial

theorem compactFrom_ends (h : KeptByRead sel R E) (order : List Nat) (cur : Nat) (s : State) :
    (compactFrom order cur s).Ends R E s := by
  induction order generalizing cur s with
  | nil => exact h.refl s
  | cons i rest ih => exact (slideTo_ends h i cur s).bind h fun _ u _ => ih _ u

theorem evictUntil_ends (h : KeptByRead sel R E) (size : Nat) (order : List Nat) (s : State) :
    R s (evictUntil size order s) := by
  induction order generalizing s with
  | nil => exact h.refl s
  | cons i rest ih =>
    unfold evictUntil
    dsimp only
    split
    · exact h.region s i (s.seg i).base false
    · exact h.trans (h.region s i (s.seg i).base false) (ih _)

theorem allocate_ends (h : KeptByRead sel R E) (size : Nat) (s : State) :
    (allocate size s).Ends R E s := by
  unfold allocate
  split
  · exact h.refl s
  have evicted : R s (if size ≤ totalFree s then s else evictUntil size (victimOrder s) s) := by
    split
    · exact h.refl s
    · exact evictUntil_ends h size _ s
  refine Res.Ends.after h evicted ((compactFrom_ends h _ _ _).bind h fun _ u _ => ?_)
  split
  · exact h.refl u
  · trivial

theorem allocateChecked_ends (h : KeptByRead sel R E) (size : Nat) (s : State) :
    (allocateChecked size s).Ends R E s := by
  unfold allocateChecked
  split
  · exact h.error s _ nofun
  · exact allocate_ends h size s

theorem segmentLoad_ends (h : KeptByRead sel R E) (i : Nat) (s : State) :
    (segmentLoad i s).Ends R E s := by
  unfold segmentLoad
  refine (allocateChecked_ends h _ s).bind h fun a u _ =>
    diskRead_memWrite_ends h _ _ u ?_ fun w _ => ?_
  · have := (s.seg i).limit.isLt
    exact .inl (by omega)
  · exact h.region w i _ true

/-! ### The page table -/

theorem evictPage_ends (h : KeptByRead sel R E) (f : Nat) (s : State) (hp : s.mode.pag = true) :
    (evictPage f s).Ends R E s := by
  unfold evictPage
  dsimp only
  split
  · exact h.fatal s
  · exact h.trans (h.page s _ (s.page (s.frame f).owner).frame false hp) (h.frame _ f _ hp)

theorem chooseFrame_ends (h : KeptByRead sel R E) (s : State) (hp : s.mode.pag = true) :
    (chooseFrame s).Ends R E s := by
  unfold chooseFrame
  split
  · exact h.refl s
  · exact (evictPage_ends h _ s hp).bind h fun _ u _ => h.refl u

theorem pageLookup_ends (h : KeptByRead sel R E) (v : Nat) (s : State) :
    (pageLookup v s).Ends R E s := by
  unfold pageLookup
  dsimp only
  split
  · exact h.error s _ nofun
  split
  · exact h.fatal s
  split
  · exact h.refl s
  split
  · exact h.fatal s
  · exact h.refl s

theorem pageFault_ends (h : KeptByRead sel R E) (v : Nat) (s : State) (hp : s.mode.pag = true) :
    (pageFault v s).Ends R E s := by
  unfold pageFault
  refine (chooseFrame_ends h s hp).bind h fun f u hu =>
    diskRead_memWrite_ends h _ _ u (.inr rfl) fun w hw => ?_
  have hpw : w.mode.pag = true := h.pag hw (h.pag hu hp)
  exact h.trans (h.page w v f true hpw) (h.frame _ f _ hpw)

theorem ensurePage_ends (h : KeptByRead sel R E) (visit : Bool) (v : Nat) (s : State)
    (hp : s.mode.pag = true) : (ensurePage visit v s).Ends R E s := by
  unfold ensurePage
  refine (pageLookup_ends h v s).bind h fun found u hu => ?_
  have hpu : u.mode.pag = true := h.pag hu hp
  refine Res.Ends.bind h ?_ fun f w hw =>
    (stampFrame_ends h f w (h.pag hw hpu)).bind h fun _ x _ => h.refl x
  cases found with
  | some f => exact h.refl u
  | none =>
    cases visit with
    | true => exact (pageFault_ends h v (u.enter .pageFault) hpu).after h (h.seq u _)
    | false => exact pageFault_ends h v u hpu

theorem populatePages_ends (h : KeptByRead sel R E) (v n : Nat) (s : State)
    (hp : s.mode.pag = true) : (populatePages v n s).Ends R E s := by
  cases hs : populatePages v n s with
  | ok _ t => exact h.populate hp hs
  | raised k t => exact absurd hs (by unfold populatePages; split <;> simp)
  | exhausted => trivial
  | stop _ => trivial

theorem loadPages_ends (h : KeptByRead sel R E) (n v : Nat) (s : State) (hp : s.mode.pag = true) :
    (loadPages n v s).Ends R E s := by
  induction n generalizing v s with
  | zero => exact h.refl s
  | succ n ih => exact (ensurePage_ends h false v s hp).bind h fun _ u hu => ih _ u (h.pag hu hp)

theorem segmentRegister_ends (h : KeptByRead sel R E) (i : Nat) (s : State)
    (hp : s.mode.pag = true) : (segmentRegister i s).Ends R E s := by
  unfold segmentRegister
  refine (allocateChecked_ends h _ s).bind h fun a u hu => ?_
  have hpu : u.mode.pag = true := h.pag hu hp
  refine Res.Ends.after h (h.region u i (toReg32 a) (u.seg i).valid) ?_
  refine (populatePages_ends h _ _ (u.setSeg i _) hpu).bind h fun _ w hw => ?_
  refine (loadPages_ends h _ _ w (h.pag hw hpu)).bind h fun _ x _ => ?_
  exact h.region x i (x.seg i).base true

/-! ### READ -/

theorem readReal_ends (h : KeptByRead sel R E) (off len : Word32) (s : State) :
    (readReal off len s).Ends R E s := by
  unfold readReal
  split
  · exact h.error s _ nofun
  have computed : R s (((s.linear off.toNat len).physical off.toNat).enter .access) := h.seq s _
  dsimp only
  split
  · exact h.trans computed (h.seq _ _)
  · refine Res.Ends.after h computed ((diskRead_ends h _ _ _).bind h fun _ u _ => ?_)
    exact h.seq u _

theorem segmentChecks_ends (h : KeptByRead sel R E) (off len : Word32) (s : State) :
    (segmentChecks sel off len s).Ends R E s := by
  unfold segmentChecks
  split_ifs
  · exact h.error s _ nofun
  · exact h.error s _ nofun
  · exact h.error s _ nofun
  · exact h.error s _ nofun
  · exact h.refl s

theorem segmentPhase_ends (h : KeptByRead sel R E) (s : State) :
    (segmentPhase sel s).Ends R E s := by
  unfold segmentPhase segmentFault
  split
  · exact stampSegment_ends h s
  refine Res.Ends.after h (h.seq s _ : R s (s.enter .segmentFault))
    (Res.Ends.bind h ?_ fun _ u _ => stampSegment_ends h u)
  split
  next hp => exact segmentRegister_ends h sel _ hp
  next => exact segmentLoad_ends h sel _

theorem readSegment_ends (h : KeptByRead sel R E) (off len : Word32) (s : State) :
    (readSegment sel off len s).Ends R E s := by
  unfold readSegment
  have computed (phys : Nat) : R s (((s.linear phys len).physical phys).enter .access) := h.seq s _
  exact Res.Ends.after h (computed _) ((memRead_ends h _ _ _).bind h fun _ u _ => h.seq u _)

theorem readChunk_ends (h : KeptByRead sel R E) (lin c : Nat) (s : State)
    (hp : s.mode.pag = true) : (readChunk lin c s).Ends R E s := by
  unfold readChunk
  dsimp only
  refine Res.Ends.after h ?lookup ((ensurePage_ends h true _ _ ?pag).bind h fun _ u _ => ?_)
  case lookup => exact h.seq s _
  case pag => exact hp
  refine Res.Ends.after h ?access ((memRead_ends h _ _ _).bind h fun _ w _ => ?_)
  case access => exact h.seq u _
  exact h.seq w _

theorem readChunks_ends (h : KeptByRead sel R E) (turns lin remain : Nat) (s : State)
    (hp : s.mode.pag = true) : (readChunks turns lin remain s).Ends R E s := by
  induction turns generalizing lin remain s with
  | zero => exact h.refl s
  | succ turns ih =>
    unfold readChunks
    split
    · exact h.refl s
    · exact (readChunk_ends h _ _ s hp).bind h fun _ u hu =>
        (ih _ _ (u.advance _ _) (h.pag hu hp :)).after h (h.seq u _)

theorem readTranslated_ends (h : KeptByRead sel R E) (off len : Word32) (s : State) :
    (readTranslated sel off len s).Ends R E s := by
  unfold readTranslated
  refine Res.Ends.after h (h.seq s _ : R s (s.enter .segmentLookup)) ?_
  refine (segmentChecks_ends h off len _).bind h fun _ u _ =>
    (segmentPhase_ends h u).bind h fun _ w _ => ?_
  split
  next hp =>
    unfold readPaged
    exact (readChunks_ends h _ _ _ ((w.linear _ len).setResult []) hp).after h (h.seq w _)
  next => exact readSegment_ends h off len w

end

/-- A whole READ: it completes with OK from a state related to where it began, or answers the error of its work, or is refused whole (R121, R253). -/
theorem execRead_ends {R : State → State → Prop} {E : Status → State → State → Prop}
    {la : LogicalAddr} {len : Word32} {s t : State} (h : KeptByRead (selOf la).toNat R E)
    (ht : exec (.read la len) s = .next t) :
    R s t ∧ t.seq.status = .ok ∨ E t.seq.status s t := by
  have entry : R s ((s.accept 0).latchRead la len) := h.seq s _
  have work (u : State) : (readWork la len u).Ends R E u := by
    refine Res.Ends.after h (h.seq u _ : R u (u.latchSelector la)) ?_
    unfold readWork
    dsimp only
    split
    · exact readTranslated_ends h _ _ _
    · exact readReal_ends h _ _ _
  have gated : ((fatalGate ((s.accept 0).latchRead la len)).bind
      fun _ u => readWork la len u).Ends R E s := by
    refine Res.Ends.after h entry (Res.Ends.bind h ?_ fun _ u _ => work u)
    unfold fatalGate
    split
    next hf => exact h.gate _ hf
    next => exact h.refl _
  rcases (Res.finish_eq_next _ _ t).1 ht with ⟨u, hr, rfl⟩ | ⟨k, u, hr, rfl⟩ | ⟨-, rfl⟩
  · rw [hr] at gated
    exact .inl ⟨h.trans gated (h.seq u _), rfl⟩
  · rw [hr] at gated
    exact .inr (h.respond k gated)
  · exact .inr (h.after entry (h.respond _ (h.fatal _)))

end Sys2Proof.Machine

/-! ## A command as its latches and its work -/

namespace Sys2Proof

open Machine

/-- The operands a command latches when it is accepted (R21). -/
def Instr.latch : Instr → State → State
  | .read la len => fun s => s.latchRead la len
  | .write _ len _ => fun s => s.latchLen len
  | .regseg _ _ _ _ _ => id
  | .invseg _ => id
  | .invpage _ => id
  | .clear => id
  | .setmode _ _ => id

/-- What a command does once it is past the `FATAL` gate (R122, R211, R214, R218, R221, R224, R230). -/
def Instr.work : Instr → State → Res Unit
  | .read la len => readWork la len
  | .write pa len data => writeWork pa len data
  | .regseg index base diskBase limit valid =>
    regsegWork index.toNat ⟨true, base, diskBase, limit, valid, 0⟩
  | .invseg index => invsegWork index.toNat
  | .invpage vpn => invpageWork vpn.toNat
  | .clear => clearWork
  | .setmode seg pag => setmodeWork seg pag

/-- The state in which a command's work begins: accepted and latched (R21, R121). -/
def Instr.entry (i : Instr) (s : State) : State := i.latch (s.accept i.opcode)

theorem Instr.entry_eq (i : Instr) (s : State) : i.entry s = { s with seq := (i.entry s).seq } := by
  cases i <;> rfl

@[simp] theorem Instr.entry_fatal (i : Instr) (s : State) : (i.entry s).fatal = s.fatal := by
  rw [i.entry_eq]

end Sys2Proof

namespace Sys2Proof.Machine

theorem exec_eq_runCommand (i : Instr) (s : State) :
    exec i s = runCommand i.opcode i.latch i.work s := by
  cases i <;> rfl

theorem exec_of_fatal (i : Instr) {s : State} (h : s.fatal = true) :
    exec i s = .next ((i.entry s).respond .internalConsistency) := by
  rw [exec_eq_runCommand]
  exact runCommand_fatal _ _ _ s ((i.entry_fatal s).trans h)

theorem exec_of_not_fatal (i : Instr) {s : State} (h : s.fatal = false) :
    exec i s = (i.work (i.entry s)).finish (i.entry s) := by
  rw [exec_eq_runCommand]
  exact runCommand_work _ _ _ s ((i.entry_fatal s).trans h)

/-- A state that differs from `s` in the sequencer's registers alone still does so once it has answered. -/
theorem respond_of_seq {s u : State} (h : u = { s with seq := u.seq }) (k : Status) :
    u.respond k = { s with seq := (u.respond k).seq } := by
  rw [h]; rfl

theorem exec_of_fatal_endsUnchanged (i : Instr) {s : State} (h : s.fatal = true) :
    endsUnchanged (exec i s) s .internalConsistency :=
  ⟨_, (exec_of_fatal i h).trans (congrArg _ (respond_of_seq (i.entry_eq s) _)), rfl, rfl⟩

/-! ## The table commands -/

/-- A table command's work completes with the tables, CLOCK and MODE written and nothing else, or raises an error of its checks with nothing changed. -/
def Res.WritesTables (s : State) : Res Unit → Prop
  | .ok _ t => t = { s with mode := t.mode, clock := t.clock, st := t.st, pt := t.pt, rpt := t.rpt }
  | .raised k t => t = s ∧ k ≠ .internalConsistency
  | .exhausted => False
  | .stop _ => True

theorem regsegChecks_eq (index : Nat) (d : Descriptor) (s : State) :
    regsegChecks index d s = .ok () s ∨
      ∃ k, k ≠ .ok ∧ k ≠ .internalConsistency ∧ regsegChecks index d s = .raised k s := by
  unfold regsegChecks
  split_ifs
  · exact .inr ⟨.segmentFault, nofun, nofun, rfl⟩
  · exact .inr ⟨.badRequest, nofun, nofun, rfl⟩
  · exact .inr ⟨.badRequest, nofun, nofun, rfl⟩
  · exact .inr ⟨.badRequest, nofun, nofun, rfl⟩
  · exact .inl rfl

theorem regsegWork_writesTables (index : Nat) (d : Descriptor) (s : State) :
    (regsegWork index d s).WritesTables s := by
  unfold regsegWork
  obtain h | ⟨k, -, hk, h⟩ := regsegChecks_eq index d s
  · rw [h, Res.bind_ok]
    unfold regsegPopulate populatePages
    split_ifs
    · trivial
    · exact rfl
    · exact rfl
  · rw [h]
    exact ⟨rfl, hk⟩

theorem invsegWork_writesTables (index : Nat) (s : State) :
    (invsegWork index s).WritesTables s := by
  unfold invsegWork
  split
  · exact ⟨rfl, nofun⟩
  · exact rfl

theorem invpageWork_writesTables (v : Nat) (s : State) : (invpageWork v s).WritesTables s := by
  unfold invpageWork
  split_ifs
  · exact ⟨rfl, nofun⟩
  · exact rfl
  · exact rfl

theorem setmodeWork_writesTables (seg pag : Bool) (s : State) :
    (setmodeWork seg pag s).WritesTables s := by
  unfold setmodeWork
  split_ifs
  · exact ⟨rfl, nofun⟩
  · exact ⟨rfl, nofun⟩
  · exact rfl

/-- Every command but READ and WRITE writes tables, CLOCK and MODE alone (R214, R218, R221, R224, R230). -/
theorem read_or_write_or_writesTables (i : Instr) : (∃ la len, i = .read la len) ∨
    (∃ pa len data, i = .write pa len data) ∨ ∀ s, (i.work s).WritesTables s := by
  cases i with
  | read la len => exact .inl ⟨la, len, rfl⟩
  | write pa len data => exact .inr (.inl ⟨pa, len, data, rfl⟩)
  | regseg index base diskBase limit valid =>
    exact .inr (.inr fun s => regsegWork_writesTables _ _ s)
  | invseg index => exact .inr (.inr fun s => invsegWork_writesTables _ s)
  | invpage vpn => exact .inr (.inr fun s => invpageWork_writesTables _ s)
  | clear => exact .inr (.inr fun _ => rfl)
  | setmode seg pag => exact .inr (.inr fun s => setmodeWork_writesTables seg pag s)

/-! ## WRITE -/

theorem writeWork_raised {pa len : Word32} {data : List Byte} {s t : State} {k : Status}
    (h : writeWork pa len data s = .raised k t) : k = .invalidAddress ∧ t = s := by
  unfold writeWork at h
  split at h
  · cases h; exact ⟨rfl, rfl⟩
  · exact absurd h (memWrite_ne_raised _ _ _ _ _)

/-- A WRITE that completes was in ACCESS when it wrote (R210). -/
theorem writeWork_ok {pa len : Word32} {data : List Byte} {s t : State}
    (h : writeWork pa len data s = .ok () t) :
    memWrite pa.toNat data (s.enter .access) = .ok () t := by
  unfold writeWork at h
  split at h
  · nomatch h
  · exact h

/-! ## FATAL -/

/-- FATAL as a READ leaves it: unchanged where its work completes, and set exactly by InternalConsistency where it raises an error (R26, R246). -/
theorem fatal_keptByRead (sel : Nat) :
    KeptByRead sel (fun s t => t.mode = s.mode ∧ t.fatal = s.fatal)
      (fun k s t => s.fatal = false → (t.fatal = true ↔ k = .internalConsistency)) where
  refl _ := ⟨rfl, rfl⟩
  trans h h' := ⟨h'.1.trans h.1, h'.2.trans h.2⟩
  after h h' hf := h' (h.2.trans hf)
  mode h := h.1
  error s k hk hf := by simp [hf, hk]
  gate s hs hf := by simp [hs] at hf
  fatal s hf := by simp
  answer _ h := h
  seq _ _ := ⟨rfl, rfl⟩
  clock _ _ := ⟨rfl, rfl⟩
  region _ _ _ _ := ⟨rfl, rfl⟩
  ts _ _ := ⟨rfl, rfl⟩
  page _ _ _ _ _ := ⟨rfl, rfl⟩
  frame _ _ _ _ := ⟨rfl, rfl⟩
  populate _ h := by rw [((populatePages_eq_ok _ _ _ _).1 h).2.1]; exact ⟨rfl, rfl⟩
  write _ h := by
    rw [((memWrite_eq_ok _ _ _ _ _).1 h).2]
    split
    · exact ⟨rfl, rfl⟩
    · exact ⟨rfl, rfl⟩
  bsRead _ _ _ := ⟨rfl, rfl⟩

/-- The outcome of work that keeps FATAL where it completes and raises no InternalConsistency. -/
theorem finish_fatal_iff {entry t : State} {r : Res Unit} (ht : r.finish entry = .next t)
    (hok : ∀ u, r = .ok () u → u.fatal = false)
    (hraised : ∀ k u, r = .raised k u → (u.fatal = true ↔ k = .internalConsistency)) :
    t.fatal = true ↔ t.seq.status = .internalConsistency := by
  rcases (Res.finish_eq_next _ _ t).1 ht with ⟨u, hr, rfl⟩ | ⟨k, u, hr, rfl⟩ | ⟨-, rfl⟩
  · simp [hok u hr]
  · simpa using hraised k u hr
  · simp

theorem memWrite_fatal {addr : Nat} {v : List Byte} {s t : State}
    (h : memWrite addr v s = .ok () t) : t.fatal = s.fatal := by
  rw [((memWrite_eq_ok _ _ _ _ _).1 h).2]
  split
  · rfl
  · rfl

/-- A command that starts with FATAL clear leaves it set exactly when it ends with InternalConsistency (R26). -/
theorem exec_fatal_iff (i : Instr) {s t : State} (hf : s.fatal = false) (ht : exec i s = .next t) :
    t.fatal = true ↔ t.seq.status = .internalConsistency := by
  have entry : (i.entry s).fatal = false := (i.entry_fatal s).trans hf
  obtain ⟨la, len, rfl⟩ | ⟨pa, len, data, rfl⟩ | tables := read_or_write_or_writesTables i
  · obtain ⟨⟨-, hfatal⟩, hstatus⟩ | h := execRead_ends (fatal_keptByRead _) ht
    · simp [hfatal, hf, hstatus]
    · exact h hf
  · rw [exec_of_not_fatal _ hf] at ht
    refine finish_fatal_iff ht (fun u hu => ?_) fun k u hu => ?_
    · exact (memWrite_fatal (writeWork_ok hu)).trans entry
    · obtain ⟨rfl, rfl⟩ := writeWork_raised hu
      simp [hf]
  · rw [exec_of_not_fatal i hf] at ht
    have written := tables (i.entry s)
    refine finish_fatal_iff ht (fun u hu => ?_) fun k u hu => ?_
    · rw [hu] at written
      rw [show u = _ from written, entry]
    · rw [hu] at written
      obtain ⟨rfl, hk⟩ := written
      simp [hf, hk]

theorem fatal_keptByUpdates : KeptByUpdates fun s t : State => s.fatal = true → t.fatal = true where
  refl _ := id
  trans h h' := h' ∘ h
  seq _ _ := id
  fatal _ _ := rfl
  clock _ _ := id
  st _ _ := id
  pt _ _ := id
  rpt _ _ := id
  mem _ _ := id
  emit _ _ := id

/-- No step but the reset event clears FATAL (R26). -/
theorem step_fatal {s t : State} (hf : s.fatal = true) (ht : step s = .next t)
    (hreset : s.input.head? ≠ some .reset) : t.fatal = true := by
  obtain h | ⟨rest, hin, -⟩ := step_leads fatal_keptByUpdates (fun _ _ _ => id) (fun _ _ => id) ht
  · exact h hf
  · simp [hin] at hreset

/-- The decoder refuses a word with a reserved opcode by name (R105). -/
theorem decode_reserved {w : CmdWord} (rest : List Input) (h : 7 ≤ (opOf w).toNat) :
    decode (.word w :: rest) = .error (.reservedOpcode (opOf w)) := by
  have op (n : BitVec 4) (hn : n.toNat < 7) : opOf w ≠ n := by rintro rfl; omega
  simp only [decode, decodeWord]
  rw [if_neg (op 0 (by decide)), if_neg (op 1 (by decide)), if_neg (op 2 (by decide)),
    if_neg (op 3 (by decide)), if_neg (op 4 (by decide)), if_neg (op 5 (by decide)),
    if_neg (op 6 (by decide))]

/-- A step on a reserved opcode takes its word off the port and answers (R105). -/
theorem step_of_reserved {s : State} {w : CmdWord} {rest : List Input} (hidle : s.seq.fsm = .idle)
    (hin : s.input = .word w :: rest) (h : 7 ≤ (opOf w).toNat) :
    step s = execReserved (opOf w) { s with input := rest } := by
  rw [step_of_reject (e := .reservedOpcode (opOf w)) hidle
    (by rw [hin, decode_reserved rest h]) nofun]
  simp [answerReject, hin]

/-- Settles O15: work raises InternalConsistency together with FATAL, the gate stops every command under FATAL, and no update of a command's work clears it. -/
theorem fatalLatchesAndFreezes : Obligations.FatalLatchesAndFreezes := by
  refine ⟨fun i s t hf ht => exec_fatal_iff i hf ht,
    fun i s hf => exec_of_fatal_endsUnchanged i hf, fun s w rest hf hidle hin hop => ?reserved,
    fun s t hf ht hreset => step_fatal hf ht hreset, fun _ => rfl⟩
  case reserved =>
    rw [step_of_reserved hidle hin hop]
    exact ⟨_, runCommand_fatal (opOf w) id _ { s with input := rest } hf, rfl, rfl⟩

/-! ## What a READ leaves alone -/

/-- What a READ with selector `sel` keeps of state `s` (R33, R36, R45, R120). -/
structure State.KeepsRegistrations (sel : Nat) (s t : State) : Prop where
  cfg : t.cfg = s.cfg
  mode : t.mode = s.mode
  input : t.input = s.input
  seg : ∀ i, (t.seg i).populated = (s.seg i).populated ∧
    (t.seg i).diskBase = (s.seg i).diskBase ∧ (t.seg i).limit = (s.seg i).limit
  ts : ∀ i, i ≠ sel → (t.seg i).ts = (s.seg i).ts
  tables : s.mode.pag = false → t.pt = s.pt ∧ t.rpt = s.rpt
  populated : ∀ v, (s.page v).populated = true → (t.page v).populated = true

/-- A state that differs from `s` in none of the tables, the parameters, the mode and the port keeps its registrations. -/
theorem State.KeepsRegistrations.of_eq {sel : Nat} {s t : State} (hcfg : t.cfg = s.cfg)
    (hmode : t.mode = s.mode) (hinput : t.input = s.input) (hst : t.st = s.st) (hpt : t.pt = s.pt)
    (hrpt : t.rpt = s.rpt) : s.KeepsRegistrations sel t := by
  have seg (i : Nat) : t.seg i = s.seg i := by simp [State.seg, hst]
  have page (v : Nat) : t.page v = s.page v := by simp [State.page, hpt]
  exact ⟨hcfg, hmode, hinput, by simp [seg], by simp [seg], fun _ => ⟨hpt, hrpt⟩, by simp [page]⟩

theorem State.KeepsRegistrations.trans {sel : Nat} {s t u : State}
    (h : s.KeepsRegistrations sel t) (h' : t.KeepsRegistrations sel u) :
    s.KeepsRegistrations sel u where
  cfg := h'.cfg.trans h.cfg
  mode := h'.mode.trans h.mode
  input := h'.input.trans h.input
  seg i := by
    obtain ⟨hp, hd, hl⟩ := h.seg i
    obtain ⟨hp', hd', hl'⟩ := h'.seg i
    exact ⟨hp'.trans hp, hd'.trans hd, hl'.trans hl⟩
  ts i hi := (h'.ts i hi).trans (h.ts i hi)
  tables hp := by
    obtain ⟨hpt, hrpt⟩ := h.tables hp
    obtain ⟨hpt', hrpt'⟩ := h'.tables (h.mode ▸ hp)
    exact ⟨hpt'.trans hpt, hrpt'.trans hrpt⟩
  populated v hv := h'.populated v (h.populated v hv)

/-- Writing one descriptor keeps the registrations if it keeps that descriptor's own, and its timestamp unless it is the READ's. -/
theorem State.KeepsRegistrations.setSeg {sel : Nat} (s : State) (j : Nat) (d : Descriptor)
    (hpop : d.populated = (s.seg j).populated) (hdisk : d.diskBase = (s.seg j).diskBase)
    (hlimit : d.limit = (s.seg j).limit) (hts : j ≠ sel → d.ts = (s.seg j).ts) :
    s.KeepsRegistrations sel (s.setSeg j d) where
  cfg := rfl
  mode := rfl
  input := rfl
  seg i := by
    by_cases h : i = j
    · subst h; simp [hpop, hdisk, hlimit]
    · simp [State.setSeg_seg_other _ _ _ _ h]
  ts i hi := by
    by_cases h : i = j
    · subst h; simp [hts hi]
    · simp [State.setSeg_seg_other _ _ _ _ h]
  tables _ := ⟨rfl, rfl⟩
  populated _ h := h

/-- In paged mode, writing the page table keeps the registrations if no entry loses its populated flag. -/
theorem State.KeepsRegistrations.of_page {sel : Nat} {s t : State} (hp : s.mode.pag = true)
    (ht : t = { s with pt := t.pt })
    (hpop : ∀ v, (s.page v).populated = true → (t.page v).populated = true) :
    s.KeepsRegistrations sel t := by
  have seg (i : Nat) : t.seg i = s.seg i := by rw [ht]; rfl
  refine ⟨by rw [ht], by rw [ht], by rw [ht], by simp [seg], by simp [seg], ?_, hpop⟩
  simp [hp]

theorem registrations_keptByRead (sel : Nat) :
    KeptByRead sel (State.KeepsRegistrations sel) (fun _ => State.KeepsRegistrations sel) where
  refl _ := .of_eq rfl rfl rfl rfl rfl rfl
  trans := State.KeepsRegistrations.trans
  after := State.KeepsRegistrations.trans
  mode h := h.mode
  error _ _ _ := .of_eq rfl rfl rfl rfl rfl rfl
  gate _ _ := .of_eq rfl rfl rfl rfl rfl rfl
  fatal _ := .of_eq rfl rfl rfl rfl rfl rfl
  answer _ h := h.trans (.of_eq rfl rfl rfl rfl rfl rfl)
  seq _ _ := .of_eq rfl rfl rfl rfl rfl rfl
  clock _ _ := .of_eq rfl rfl rfl rfl rfl rfl
  region s i _ _ := .setSeg s i _ rfl rfl rfl fun _ => rfl
  ts s _ := .setSeg s sel _ rfl rfl rfl fun h => absurd rfl h
  page s v f r hp := .of_page hp rfl fun w hw => by
    by_cases h : w = v
    · subst h; simpa using hw
    · simpa [State.setPage_page_other _ _ _ _ h] using hw
  frame s f e hp :=
    ⟨rfl, rfl, rfl, fun _ => ⟨rfl, rfl, rfl⟩, fun _ _ => rfl, by simp [hp], fun _ => id⟩
  populate hp h := .of_page hp ((populatePages_eq_ok _ _ _ _).1 h).2.1 fun v hv => by
    rw [populatePages_page _ _ _ _ h v]
    split
    · rfl
    · exact hv
  write _ h := by
    rw [((memWrite_eq_ok _ _ _ _ _).1 h).2]
    split
    · exact .of_eq rfl rfl rfl rfl rfl rfl
    · exact .of_eq rfl rfl rfl rfl rfl rfl
  bsRead _ _ _ := .of_eq rfl rfl rfl rfl rfl rfl

/-- Settles O32: every update of a READ's work keeps the registrations, where it completes and where it raises an error. -/
theorem readKeepsRegistrations : Obligations.ReadKeepsRegistrations := by
  intro s t la len ht
  have kept : s.KeepsRegistrations (selOf la).toNat t := by
    obtain ⟨h, -⟩ | h := execRead_ends (registrations_keptByRead _) ht
    · exact h
    · exact h
  exact ⟨kept.cfg, kept.mode, kept.input, kept.seg, kept.ts, kept.tables, kept.populated⟩

/-! ## Memory changes are announced -/

/-- The memory of `t` differs from that of `s` only where the notices sent since say so (R64, R68). -/
structure State.Announces (s t : State) : Prop where
  cfg : t.cfg = s.cfg
  events : s.cfg.wf → ∃ events, t.trace = s.trace ++ events ∧
    ∀ a, (∀ b n, .notice b n ∈ events → ¬ noticeCovers s.cfg b n a) → t.byte a = s.byte a

theorem State.Announces.of_trace {s t : State} {events : List Event} (hcfg : t.cfg = s.cfg)
    (hmem : t.mem = s.mem) (htrace : t.trace = s.trace ++ events) : s.Announces t :=
  ⟨hcfg, fun _ => ⟨events, htrace, fun _ _ => by simp [State.byte, hmem]⟩⟩

theorem State.Announces.of_eq {s t : State} (hcfg : t.cfg = s.cfg) (hmem : t.mem = s.mem)
    (htrace : t.trace = s.trace) : s.Announces t :=
  .of_trace (events := []) hcfg hmem (by simp [htrace])

theorem State.Announces.trans {s t u : State} (h : s.Announces t) (h' : t.Announces u) :
    s.Announces u where
  cfg := h'.cfg.trans h.cfg
  events hwf := by
    obtain ⟨es, htrace, hmem⟩ := h.events hwf
    obtain ⟨es', htrace', hmem'⟩ := h'.events (h.cfg ▸ hwf)
    refine ⟨es ++ es', by rw [htrace', htrace, List.append_assoc], fun a ha => ?_⟩
    refine (hmem' a fun b n hbn => ?_).trans (hmem a fun b n hbn => ?_)
    · rw [h.cfg]; exact ha b n (List.mem_append_right _ hbn)
    · exact ha b n (List.mem_append_left _ hbn)

theorem State.Announces.respond {s t : State} (h : s.Announces t) (k : Status) :
    s.Announces (t.respond k) := h.trans (.of_eq rfl rfl rfl)

/-- The notice of a write covers every byte it changes: the address and, but for a page of 2^32 bytes, the length fit the port (R64, R111, log entry 12). -/
theorem noticeCovers_of_write {c : Config} {addr n a : Nat} (hwf : c.wf)
    (hn : n < 2 ^ 32 ∨ n = c.pageSize) (hinside : addr + n ≤ c.memSize)
    (ha : addr ≤ a ∧ a < addr + n) : noticeCovers c (toReg32 addr) (toReg32 n) a := by
  obtain ⟨-, hmem, -⟩ := hwf
  have size : c.memSize ≤ 2 ^ 32 := Nat.pow_le_pow_right two_pos hmem
  have start : (toReg32 addr).toNat = addr := toReg32_of_lt _ (by omega)
  refine ⟨by omega, ?_⟩
  by_cases hfit : n < 2 ^ 32
  · have length : (toReg32 n).toNat = n := toReg32_of_lt _ hfit
    exact .inl (by omega)
  · obtain rfl : n = 2 ^ 32 := by omega
    exact .inr ⟨by omega, rfl⟩

theorem memWrite_announces {addr : Nat} {v : List Byte} {s t : State}
    (hv : v.length < 2 ^ 32 ∨ v.length = s.cfg.pageSize) (h : memWrite addr v s = .ok () t) :
    s.Announces t := by
  obtain ⟨hinside, rfl⟩ := (memWrite_eq_ok _ _ _ _ _).1 h
  split
  · exact .of_eq rfl rfl rfl
  · refine ⟨rfl, fun hwf => ⟨[.notice (toReg32 addr) (toReg32 v.length)], rfl, fun a ha => ?_⟩⟩
    refine Memory.read_write_outside _ _ _ _ ?_
    by_contra inside
    exact ha _ _ (by simp) (noticeCovers_of_write hwf hv hinside (by omega))

theorem announces_keptByRead (sel : Nat) :
    KeptByRead sel (fun s t => t.mode = s.mode ∧ s.Announces t) (fun _ => State.Announces) where
  refl _ := ⟨rfl, .of_eq rfl rfl rfl⟩
  trans h h' := ⟨h'.1.trans h.1, h.2.trans h'.2⟩
  after h h' := h.2.trans h'
  mode h := h.1
  error _ _ _ := .of_eq rfl rfl rfl
  gate _ _ := .of_eq rfl rfl rfl
  fatal _ := .of_eq rfl rfl rfl
  answer _ h := h.trans (.of_eq rfl rfl rfl)
  seq _ _ := ⟨rfl, .of_eq rfl rfl rfl⟩
  clock _ _ := ⟨rfl, .of_eq rfl rfl rfl⟩
  region _ _ _ _ := ⟨rfl, .of_eq rfl rfl rfl⟩
  ts _ _ := ⟨rfl, .of_eq rfl rfl rfl⟩
  page _ _ _ _ _ := ⟨rfl, .of_eq rfl rfl rfl⟩
  frame _ _ _ _ := ⟨rfl, .of_eq rfl rfl rfl⟩
  populate _ h := by
    rw [((populatePages_eq_ok _ _ _ _).1 h).2.1]
    exact ⟨rfl, .of_eq rfl rfl rfl⟩
  write {s t a v} hv h := by
    refine ⟨?_, memWrite_announces hv h⟩
    rw [((memWrite_eq_ok _ _ _ _ _).1 h).2]
    split
    · rfl
    · rfl
  bsRead s off n := ⟨rfl, .of_trace (events := [.bsRead off n]) rfl rfl rfl⟩

/-- WRITE announces the range it writes: its length fits the port, since its payload has LEN bytes (R98, R211). -/
theorem writeWork_announces {pa len : Word32} {data : List Byte} {s t : State}
    (hlen : data.length = len.toNat) (h : writeWork pa len data s = .ok () t) : s.Announces t := by
  have entered : s.Announces (s.enter .access) := .of_eq rfl rfl rfl
  exact entered.trans (memWrite_announces (.inl (by rw [hlen]; exact len.isLt)) (writeWork_ok h))

/-- A command announces what its work changes: it answers from where the work ended, or from where it began. -/
theorem exec_announces_of_work {i : Instr} {s t : State} (ht : exec i s = .next t)
    (hok : ∀ u, i.work (i.entry s) = .ok () u → (i.entry s).Announces u)
    (hraised : ∀ k u, i.work (i.entry s) = .raised k u → (i.entry s).Announces u) :
    s.Announces t := by
  have entry : s.Announces (i.entry s) := by rw [i.entry_eq]; exact .of_eq rfl rfl rfl
  by_cases hf : s.fatal = true
  · obtain rfl := Host.Outcome.next.inj ((exec_of_fatal i hf).symm.trans ht)
    exact entry.respond _
  rw [exec_of_not_fatal i (by simpa using hf)] at ht
  rcases (Res.finish_eq_next _ _ t).1 ht with ⟨u, hr, rfl⟩ | ⟨k, u, hr, rfl⟩ | ⟨-, rfl⟩
  · exact (entry.trans (hok u hr)).respond _
  · exact (entry.trans (hraised k u hr)).respond _
  · exact entry.trans (.of_eq rfl rfl rfl)

theorem exec_announces {i : Instr} {s t : State} (hwf : i.wellFormed = true)
    (ht : exec i s = .next t) : s.Announces t := by
  obtain ⟨la, len, rfl⟩ | ⟨pa, len, data, rfl⟩ | tables := read_or_write_or_writesTables i
  · obtain ⟨⟨-, h⟩, -⟩ | h := execRead_ends (announces_keptByRead _) ht
    · exact h
    · exact h
  · refine exec_announces_of_work ht (fun u hu => ?_) fun k u hu => ?_
    · exact writeWork_announces (by simpa [Instr.wellFormed] using hwf) hu
    · rw [(writeWork_raised hu).2]
      exact .of_eq rfl rfl rfl
  · have written := tables (i.entry s)
    refine exec_announces_of_work ht (fun u hu => ?_) fun k u hu => ?_
    · rw [hu] at written
      rw [show u = _ from written]
      exact .of_eq rfl rfl rfl
    · rw [hu] at written
      rw [written.1]
      exact .of_eq rfl rfl rfl

/-- Settles O51: MemWrite is the one update that changes memory, and it sends the notice of the range it writes. -/
theorem memoryChangesAreAnnounced : Obligations.MemoryChangesAreAnnounced :=
  fun _ _ _ hcfg hwf ht => (exec_announces hwf ht).events hcfg

end Sys2Proof.Machine

namespace Sys2Proof.Machine

/-! ## Gaps between regions (R161) -/

/-- Of two non-empty regions (base, size) the earlier one ends where the later one starts, or before. -/
abbrev inOrder (p q : Nat × Nat) : Prop := 0 < p.2 → 0 < q.2 → p.1 + p.2 ≤ q.1

/-- A gap lies above `cur` and below `top`, is not empty, and shares no byte with a region. -/
theorem gapsFrom_apart {top cur : Nat} {l : List (Nat × Nat)} {g : Nat × Nat}
    (horder : l.Pairwise inOrder) (hinside : ∀ p ∈ l, 0 < p.2 → cur ≤ p.1 ∧ p.1 + p.2 ≤ top)
    (hg : g ∈ gapsFrom top l cur) : cur ≤ g.1 ∧ g.1 < g.2 ∧ g.2 ≤ top ∧
      ∀ p ∈ l, 0 < p.2 → g.2 ≤ p.1 ∨ p.1 + p.2 ≤ g.1 := by
  induction l generalizing cur with
  | nil =>
    unfold gapsFrom at hg
    split at hg
    · obtain rfl := List.mem_singleton.1 hg
      exact ⟨le_refl _, by assumption, le_refl _, nofun⟩
    · nomatch hg
  | cons p l ih =>
    obtain ⟨hp, hl⟩ := List.pairwise_cons.1 horder
    by_cases hempty : p.2 = 0
    · rw [gapsFrom, if_pos hempty] at hg
      have := ih hl (fun q hq => hinside q (List.mem_cons_of_mem _ hq)) hg
      simpa [hempty] using this
    have hpos : 0 < p.2 := by omega
    obtain ⟨hcur, htop⟩ := hinside p (List.mem_cons_self ..) hpos
    have after : ∀ q ∈ l, 0 < q.2 → p.1 + p.2 ≤ q.1 ∧ q.1 + q.2 ≤ top := fun q hq hpos' =>
      ⟨hp q hq hpos hpos', (hinside q (List.mem_cons_of_mem _ hq) hpos').2⟩
    have later (hg : g ∈ gapsFrom top l (p.1 + p.2)) : cur ≤ g.1 ∧ g.1 < g.2 ∧ g.2 ≤ top ∧
        ∀ q ∈ p :: l, 0 < q.2 → g.2 ≤ q.1 ∨ q.1 + q.2 ≤ g.1 := by
      obtain ⟨h1, h2, h3, h4⟩ := ih hl after hg
      exact ⟨by omega, h2, h3, List.forall_mem_cons.2 ⟨fun _ => .inr h1, h4⟩⟩
    rw [gapsFrom, if_neg hempty] at hg
    split at hg
    · rcases List.mem_cons.1 hg with rfl | hg
      · refine ⟨le_refl _, by assumption, by simp only []; omega, List.forall_mem_cons.2
          ⟨fun _ => .inl (le_refl _), fun q hq hpos' => .inl ?_⟩⟩
        have := (after q hq hpos').1
        simp only []
        omega
      · exact later hg
    · exact later hg

/-- A range that shares no byte with a region lies in one gap. -/
theorem gapsFrom_covers {top cur size a : Nat} {l : List (Nat × Nat)} (hsize : 1 ≤ size)
    (hcur : cur ≤ a) (htop : a + size ≤ top)
    (hfree : ∀ p ∈ l, 0 < p.2 → a + size ≤ p.1 ∨ p.1 + p.2 ≤ a) :
    ∃ g ∈ gapsFrom top l cur, g.1 ≤ a ∧ a + size ≤ g.2 := by
  induction l generalizing cur with
  | nil =>
    rw [gapsFrom, if_pos (by omega)]
    exact ⟨_, List.mem_singleton_self _, hcur, htop⟩
  | cons p l ih =>
    obtain ⟨hp, hl⟩ := List.forall_mem_cons.1 hfree
    by_cases hempty : p.2 = 0
    · rw [gapsFrom, if_pos hempty]
      exact ih hcur hl
    rw [gapsFrom, if_neg hempty]
    rcases hp (by omega) with hbefore | hafter
    · rw [if_pos (by omega)]
      exact ⟨_, List.mem_cons_self .., hcur, hbefore⟩
    · obtain ⟨g, hg, hin⟩ := ih hafter hl
      refine ⟨g, ?_, hin⟩
      split
      · exact List.mem_cons_of_mem _ hg
      · exact hg

/-- Gaps and regions fill the space from `cur` to `top`. -/
theorem gapsFrom_sum {top cur : Nat} {l : List (Nat × Nat)} (horder : l.Pairwise inOrder)
    (hinside : ∀ p ∈ l, 0 < p.2 → cur ≤ p.1 ∧ p.1 + p.2 ≤ top) (hcur : cur ≤ top) :
    ((gapsFrom top l cur).map fun g => g.2 - g.1).sum + (l.map Prod.snd).sum = top - cur := by
  induction l generalizing cur with
  | nil =>
    unfold gapsFrom
    split
    · simp
    · simp; omega
  | cons p l ih =>
    obtain ⟨hp, hl⟩ := List.pairwise_cons.1 horder
    by_cases hempty : p.2 = 0
    · have := ih hl (fun q hq => hinside q (List.mem_cons_of_mem _ hq)) hcur
      rw [gapsFrom, if_pos hempty]
      simpa [hempty] using this
    have hpos : 0 < p.2 := by omega
    obtain ⟨hbase, hend⟩ := hinside p (List.mem_cons_self ..) hpos
    have rest := ih (cur := p.1 + p.2) hl (fun q hq hpos' =>
      ⟨hp q hq hpos hpos', (hinside q (List.mem_cons_of_mem _ hq) hpos').2⟩) hend
    rw [gapsFrom, if_neg hempty, List.map_cons, List.sum_cons]
    split
    · rw [List.map_cons, List.sum_cons]
      omega
    · omega

/-! ## The valid regions of a sound state (R42, R161) -/

section
variable {s t : State}

/-- In a sound state the valid entries are exactly the valid descriptors with their selectors. -/
theorem State.Sound.mem_validEntries (h : s.Sound) (i : Nat) (d : Descriptor) :
    (i, d) ∈ validEntries s ↔ s.seg i = d ∧ d.valid = true := by
  obtain ⟨⟨hwf, -⟩, -⟩ := h.canonical
  rw [validEntries, List.mem_filter, Sparse.mem_iff _ _ hwf]
  constructor
  · rintro ⟨⟨hget, -⟩, hvalid⟩; exact ⟨hget, hvalid⟩
  · rintro ⟨hget, hvalid⟩
    exact ⟨⟨hget, by rintro rfl; nomatch hvalid⟩, hvalid⟩

/-- No descriptor beyond the table is valid. -/
theorem State.Sound.lt_of_valid (h : s.Sound) {i : Nat} (hv : (s.seg i).valid = true) :
    i < s.cfg.numSegments := by
  obtain ⟨⟨-, hkeys⟩, -⟩ := h.canonical
  exact hkeys _ (List.mem_of_mem_filter ((h.mem_validEntries i _).2 ⟨rfl, hv⟩))

theorem mem_byBase (p : Nat × Descriptor) : p ∈ byBase s ↔ p ∈ validEntries s :=
  (List.perm_insertionSort _ _).mem_iff

theorem State.Sound.mem_validOrder (h : s.Sound) (i : Nat) :
    i ∈ validOrder s ↔ (s.seg i).valid = true := by
  rw [validOrder, List.mem_map]
  constructor
  · rintro ⟨⟨j, d⟩, hp, rfl⟩
    obtain ⟨rfl, hv⟩ := (h.mem_validEntries j d).1 ((mem_byBase _).1 hp)
    exact hv
  · exact fun hv => ⟨(i, s.seg i), (mem_byBase _).2 ((h.mem_validEntries i _).2 ⟨rfl, hv⟩), rfl⟩

theorem State.Sound.mem_victimOrder (h : s.Sound) (i : Nat) :
    i ∈ victimOrder s ↔ (s.seg i).valid = true := by
  have perm : (victimOrder s).Perm (validOrder s) :=
    ((List.perm_insertionSort _ _).trans (List.perm_insertionSort _ _).symm).map _
  rw [perm.mem_iff, h.mem_validOrder]

theorem State.Sound.validOrder_nodup (h : s.Sound) : (validOrder s).Nodup := by
  obtain ⟨⟨⟨hsorted, -⟩, -⟩, -⟩ := h.canonical
  have keys : ((validEntries s).map Prod.fst).Nodup :=
    List.pairwise_map.2 ((hsorted.filter _).imp Nat.ne_of_lt)
  exact (((List.perm_insertionSort _ _).map Prod.fst).nodup_iff).2 keys

/-- `ValidOrder` has the bases in ascending order (R161). -/
theorem byBase_sorted (s : State) : (byBase s).Pairwise fun p q => p.2.base ≤ q.2.base := by
  have total : Std.Total baseBefore := ⟨fun p q => by unfold baseBefore; bv_omega⟩
  have trans : IsTrans (Nat × Descriptor) baseBefore :=
    ⟨fun p q r => by unfold baseBefore; bv_omega⟩
  refine (List.pairwise_insertionSort baseBefore (validEntries s)).imp fun h => ?_
  unfold baseBefore at h
  bv_omega

theorem State.Sound.mem_regions (h : s.Sound) (p : Nat × Nat) : p ∈ regions s ↔
    ∃ i, (s.seg i).valid = true ∧ p = ((s.seg i).base.toNat, s.regionSize (s.seg i)) := by
  rw [regions, List.mem_map]
  constructor
  · rintro ⟨⟨i, d⟩, hp, rfl⟩
    obtain ⟨rfl, hv⟩ := (h.mem_validEntries i d).1 ((mem_byBase _).1 hp)
    exact ⟨i, hv, rfl⟩
  · rintro ⟨i, hv, rfl⟩
    exact ⟨(i, s.seg i), (mem_byBase _).2 ((h.mem_validEntries i _).2 ⟨rfl, hv⟩), rfl⟩

theorem State.Sound.regions_inside (h : s.Sound) :
    ∀ p ∈ regions s, 0 < p.2 → 0 ≤ p.1 ∧ p.1 + p.2 ≤ s.cfg.memSize := by
  intro p hp _
  obtain ⟨i, hv, rfl⟩ := (h.mem_regions p).1 hp
  exact ⟨Nat.zero_le _, (h.seg i (h.lt_of_valid hv) hv).1⟩

/-- I-SEG puts the regions of `ValidOrder` one after another. -/
theorem State.Sound.regions_inOrder (h : s.Sound) : (regions s).Pairwise inOrder := by
  rw [regions, List.pairwise_map]
  have distinct : (byBase s).Pairwise fun p q => p.1 ≠ q.1 :=
    List.pairwise_map.1 h.validOrder_nodup
  refine ((byBase_sorted s).and distinct).imp_of_mem fun {p q} hp hq hpq => ?_
  obtain ⟨hbase, hne⟩ := hpq
  obtain ⟨hp', hpv⟩ := (h.mem_validEntries p.1 p.2).1 ((mem_byBase p).1 hp)
  obtain ⟨hq', hqv⟩ := (h.mem_validEntries q.1 q.2).1 ((mem_byBase q).1 hq)
  rw [← hp'] at hpv hbase ⊢
  rw [← hq'] at hqv hbase ⊢
  intro hpos hpos'
  have apart := (h.seg p.1 (h.lt_of_valid hpv) hpv).2 q.1 (h.lt_of_valid hqv) hne hqv hpos hpos'
  rcases apart with hab | hba
  · exact hab
  · have : (s.seg p.1).base.toNat ≤ (s.seg q.1).base.toNat := hbase
    simp only [] at hpos' ⊢
    omega

/-- The bytes that all valid regions take (R10). -/
def usedBytes (s : State) : Nat := ((validOrder s).map fun i => s.regionSize (s.seg i)).sum

theorem State.Sound.usedBytes_eq (h : s.Sound) : usedBytes s = ((regions s).map Prod.snd).sum := by
  unfold usedBytes validOrder regions
  rw [List.map_map, List.map_map]
  refine congrArg List.sum (List.map_congr_left fun p hp => ?_)
  obtain ⟨hseg, -⟩ := (h.mem_validEntries p.1 p.2).1 ((mem_byBase p).1 hp)
  simp [hseg]

/-- What the valid regions leave is free (R161). -/
theorem State.Sound.totalFree_add_usedBytes (h : s.Sound) :
    totalFree s + usedBytes s = s.cfg.memSize := by
  rw [h.usedBytes_eq]
  exact gapsFrom_sum h.regions_inOrder h.regions_inside (Nat.zero_le _)

/-! ## First fit (R162) -/

theorem State.Sound.firstFit_freeAt (h : s.Sound) {size a : Nat} (hfit : firstFit size s = some a) :
    freeAt s size a := by
  obtain ⟨g, hfind, rfl⟩ := Option.map_eq_some_iff.1 hfit
  obtain ⟨-, hpos, htop, hfree⟩ :=
    gapsFrom_apart h.regions_inOrder h.regions_inside (List.mem_of_find?_eq_some hfind)
  have hsize : size ≤ g.2 - g.1 := by simpa using List.find?_some hfind
  refine ⟨by omega, fun i _ hv _ hr => ?_⟩
  rcases hfree _ ((h.mem_regions _).2 ⟨i, hv, rfl⟩) hr with hle | hle
  · exact .inl (by simp only [] at hle; omega)
  · exact .inr hle

/-- Where some place is free, first fit finds one. -/
theorem State.Sound.firstFit_of_freeAt (h : s.Sound) {size a : Nat} (hsize : 1 ≤ size)
    (hfree : freeAt s size a) : ∃ b, firstFit size s = some b := by
  obtain ⟨htop, hapart⟩ := hfree
  obtain ⟨g, hg, hlow, hhigh⟩ := gapsFrom_covers (l := regions s) hsize (Nat.zero_le a) htop
    fun p hp hpos => by
      obtain ⟨i, hv, rfl⟩ := (h.mem_regions p).1 hp
      exact hapart i (h.lt_of_valid hv) hv (by omega) hpos
  have found : ((gaps s).find? fun g => size ≤ g.2 - g.1).isSome :=
    List.find?_isSome.2 ⟨g, hg, by simp; omega⟩
  obtain ⟨b, hb⟩ := Option.isSome_iff_exists.1 found
  exact ⟨b.1, by rw [firstFit, hb]; rfl⟩

end

end Sys2Proof.Machine

namespace Sys2Proof.Machine

/-! ## What allocation changes (R163, R165) -/

/-- State `t` is `s` with regions moved and descriptors evicted: nothing but the segment table, the memory and the trace differs, each descriptor in its base and valid flag alone, and none becomes valid. -/
structure State.Rearranged (s t : State) : Prop where
  frame : t = { s with st := t.st, mem := t.mem, trace := t.trace }
  canonical : s.canonical → t.canonical
  seg : ∀ i, ∃ b v, t.seg i = { s.seg i with base := b, valid := v } ∧
    (v = true → (s.seg i).valid = true)

section
variable {s t u : State}

theorem State.Rearranged.refl (s : State) : s.Rearranged s := ⟨rfl, id, fun _ => ⟨_, _, rfl, id⟩⟩

theorem State.Rearranged.trans (h : s.Rearranged t) (h' : t.Rearranged u) : s.Rearranged u where
  frame := by rw [h'.frame, h.frame]
  canonical := h'.canonical ∘ h.canonical
  seg i := by
    obtain ⟨b, v, hseg, hv⟩ := h.seg i
    obtain ⟨b', v', hseg', hv'⟩ := h'.seg i
    exact ⟨b', v', by rw [hseg', hseg], fun h => hv (by simpa [hseg] using hv' h)⟩

theorem State.Rearranged.cfg (h : s.Rearranged t) : t.cfg = s.cfg := by rw [h.frame]
theorem State.Rearranged.mode (h : s.Rearranged t) : t.mode = s.mode := by rw [h.frame]
theorem State.Rearranged.clock (h : s.Rearranged t) : t.clock = s.clock := by rw [h.frame]

theorem State.Rearranged.regionSize_eq (h : s.Rearranged t) (d : Descriptor) :
    t.regionSize d = s.regionSize d := by rw [h.frame]; rfl

/-- A region's size depends on where the segment lies in the backing store, not on where it is resident (R10). -/
theorem State.regionSize_congr (s : State) {d d' : Descriptor} (hdisk : d'.diskBase = d.diskBase)
    (hlimit : d'.limit = d.limit) : s.regionSize d' = s.regionSize d := by
  simp [State.regionSize, Machine.regionSize, halfCount, pageCount, firstPage, lastPage, hdisk,
    hlimit]

theorem State.Rearranged.regionSize_seg (h : s.Rearranged t) (i : Nat) :
    t.regionSize (t.seg i) = s.regionSize (s.seg i) := by
  obtain ⟨b, v, hseg, -⟩ := h.seg i
  rw [h.regionSize_eq, hseg]
  exact s.regionSize_congr rfl rfl

theorem State.Rearranged.valid (h : s.Rearranged t) {i : Nat} (hv : (t.seg i).valid = true) :
    (s.seg i).valid = true := by
  obtain ⟨b, v, hseg, hvalid⟩ := h.seg i
  exact hvalid (by rw [hseg] at hv; exact hv)

theorem State.Rearranged.registration (h : s.Rearranged t) (i : Nat) :
    (t.seg i).populated = (s.seg i).populated ∧ (t.seg i).diskBase = (s.seg i).diskBase ∧
      (t.seg i).limit = (s.seg i).limit ∧ (t.seg i).ts = (s.seg i).ts := by
  obtain ⟨b, v, hseg, -⟩ := h.seg i
  simp [hseg]

/-- Of the invariants of a sound state only I-SEG can break when regions move (R176). -/
theorem State.Rearranged.sound (h : s.Rearranged t) (hs : s.Sound) (hseg : t.iSeg) : t.Sound := by
  have canonical := h.canonical hs.canonical
  rw [h.frame] at canonical hseg ⊢
  refine { hs with
    canonical := canonical
    seg := hseg
    disk := fun i hi hp => ?disk
    pop := fun hpag i hi hv hlimit v hv' => ?pop
    fields := ⟨fun i hi => ?fields, hs.fields.2⟩ }
  case disk =>
    obtain ⟨hpop, hdisk, hlimit, -⟩ := h.registration i
    change (t.seg i).diskBase.toNat + (t.seg i).limit.toNat ≤ _
    rw [hdisk, hlimit]
    exact hs.disk i hi (hpop ▸ hp)
  case pop =>
    obtain ⟨-, hdisk, hlim, -⟩ := h.registration i
    change firstPage s.cfg (t.seg i) ≤ v → v ≤ lastPage s.cfg (t.seg i) → _
    rw [firstPage, lastPage, hdisk, hlim]
    exact hs.pop hpag i hi (h.valid hv) (hlim ▸ hlimit) v hv'
  case fields =>
    obtain ⟨hpop, -, -, hts⟩ := h.registration i
    change ((t.seg i).valid = true → (t.seg i).populated = true) ∧ (t.seg i).ts ≤ s.clock
    rw [hpop, hts]
    exact ⟨fun hv => (hs.fields.1 i hi).1 (h.valid hv), (hs.fields.1 i hi).2⟩

/-- Writing a descriptor's base, or its valid flag to no more than it was. -/
theorem State.Rearranged.setSeg {i : Nat} (hi : i < s.cfg.numSegments) (b : Word32) (v : Bool)
    (hv : v = true → (s.seg i).valid = true) :
    s.Rearranged (s.setSeg i { s.seg i with base := b, valid := v }) where
  frame := rfl
  canonical hs := by
    obtain ⟨⟨hwf, hkeys⟩, hrest⟩ := hs
    exact ⟨⟨Sparse.wf_set _ _ _ _ hwf, Sparse.keys_set _ _ _ _ _ hkeys hi⟩, hrest⟩
  seg j := by
    by_cases h : j = i
    · subst h; exact ⟨b, v, State.setSeg_seg_same _ _ _, hv⟩
    · exact ⟨_, _, State.setSeg_seg_other _ _ _ _ h, id⟩

/-- Writing memory inside the device, with its notice. -/
theorem State.Rearranged.written {a : Nat} {bytes : List Byte} (e : Event)
    (h : a + bytes.length ≤ s.cfg.memSize) :
    s.Rearranged (({ s with mem := Memory.write s.mem a bytes }).emit e) where
  frame := rfl
  canonical hs := by
    obtain ⟨hst, hpt, hrpt, hwf, hkeys⟩ := hs
    exact ⟨hst, hpt, hrpt, Memory.wf_write _ _ _ hwf, Memory.keys_write _ _ _ _ hkeys h⟩
  seg _ := ⟨_, _, rfl, id⟩

/-! ### Eviction (R165, R171) -/

theorem State.Rearranged.invalidate {i : Nat} (hi : i < s.cfg.numSegments) :
    s.Rearranged (invalidate i s) := .setSeg hi (s.seg i).base false nofun

/-- Eviction takes regions away and moves none. -/
theorem invalidate_iSeg (i : Nat) (h : s.iSeg) : (invalidate i s).iSeg := by
  have kept {j : Nat} (hv : ((Machine.invalidate i s).seg j).valid = true) :
      (Machine.invalidate i s).seg j = s.seg j := by
    refine invalidate_seg_other i j s ?_
    rintro rfl
    simp at hv
  intro j hj hv
  have hvj := hv
  rw [kept hv] at hvj ⊢
  refine ⟨(h j hj hvj).1, fun k hk hne hvk => ?_⟩
  have hvk' := hvk
  rw [kept hvk] at hvk' ⊢
  exact (h j hj hvj).2 k hk hne hvk'

theorem State.Sound.usedBytes_of_none_valid (h : s.Sound) (hnone : ∀ i, (s.seg i).valid = false) :
    usedBytes s = 0 := by
  have : validOrder s = [] := List.eq_nil_iff_forall_not_mem.2 fun i hi => by
    simpa [hnone i] using (h.mem_validOrder i).1 hi
  simp [usedBytes, this]

/-- Eviction down a list of all valid descriptors ends with room for any size the memory has (R165, R169). -/
theorem evictUntil_makes_room {size : Nat} {order : List Nat} (hs : s.Sound)
    (hsize : size ≤ s.cfg.memSize) (hall : ∀ i, (s.seg i).valid = true → i ∈ order)
    (hin : ∀ i ∈ order, i < s.cfg.numSegments) :
    s.Rearranged (evictUntil size order s) ∧ (evictUntil size order s).Sound ∧
      size ≤ totalFree (evictUntil size order s) := by
  induction order generalizing s with
  | nil =>
    have free := hs.totalFree_add_usedBytes
    rw [hs.usedBytes_of_none_valid fun i => by simpa using mt (hall i)] at free
    exact ⟨.refl s, hs, by rw [evictUntil]; omega⟩
  | cons i rest ih =>
    obtain ⟨hi, hrest⟩ := List.forall_mem_cons.1 hin
    have evicted : s.Rearranged (invalidate i s) := .invalidate hi
    have sound : (invalidate i s).Sound := evicted.sound hs (invalidate_iSeg i hs.seg)
    have left (j : Nat) (hv : ((invalidate i s).seg j).valid = true) : j ∈ rest := by
      refine (List.mem_cons.1 (hall j (evicted.valid hv))).resolve_left ?_
      rintro rfl
      simp at hv
    rw [evictUntil]
    split
    next hroom => exact ⟨evicted, sound, hroom⟩
    next =>
      obtain ⟨hre, hso, hfree⟩ := ih sound (by rw [evicted.cfg]; exact hsize) left
        (by rw [evicted.cfg]; exact hrest)
      exact ⟨evicted.trans hre, hso, hfree⟩

/-! ### Compaction (R163) -/

/-- Sliding a region that lies in ResidentMemory to a place with room for it completes. -/
theorem slideTo_completes {i cur : Nat} (hi : i < s.cfg.numSegments)
    (hfrom : (s.seg i).base.toNat + s.regionSize (s.seg i) ≤ s.cfg.memSize)
    (hto : cur + s.regionSize (s.seg i) ≤ s.cfg.memSize) :
    ∃ t, slideTo i cur s = .ok () t ∧ s.Rearranged t ∧
      t.seg i = { s.seg i with base := toReg32 cur } ∧ ∀ j, j ≠ i → t.seg j = s.seg j := by
  have slid := slideTo_eq_ok i cur s
  by_cases hplace : (s.seg i).base.toNat = cur
  · refine ⟨s, (slid s ()).2 (.inl ⟨hplace, rfl⟩), .refl s, ?_, fun _ _ => rfl⟩
    rw [← hplace, toReg32_toNat]
  by_cases hmoves : s.mode.pag = false ∧ 0 < s.regionSize (s.seg i)
  · refine ⟨_, (slid _ ()).2 (.inr (.inr ⟨hplace, hmoves, hfrom, hto, rfl⟩)), ?_,
      State.setSeg_seg_same _ _ _, fun j hj => State.setSeg_seg_other _ _ _ _ hj⟩
    refine State.Rearranged.trans (.written (a := cur) (bytes := Memory.readRange s.mem
      (s.seg i).base.toNat (s.regionSize (s.seg i)))
      (.notice (toReg32 cur) (toReg32 (s.regionSize (s.seg i)))) (by simpa using hto)) ?_
    apply State.Rearranged.setSeg
    · exact hi
    · exact id
  · exact ⟨_, (slid _ ()).2 (.inr (.inl ⟨hplace, hmoves, rfl⟩)),
      .setSeg hi (toReg32 cur) (s.seg i).valid id, State.setSeg_seg_same _ _ _,
      fun j hj => State.setSeg_seg_other _ _ _ _ hj⟩

theorem packing_congr {order : List Nat} {cur : Nat}
    (h : ∀ i ∈ order, t.regionSize (t.seg i) = s.regionSize (s.seg i)) :
    packing t order cur = packing s order cur := by
  induction order generalizing cur with
  | nil => rfl
  | cons i rest ih =>
    obtain ⟨hi, hrest⟩ := List.forall_mem_cons.1 h
    rw [packing, packing, hi, ih hrest]

/-- The compaction loop completes where the regions left to slide have room above `cur`, and gives each the base of its packing. -/
theorem compactFrom_completes {order : List Nat} {cur : Nat} (hnodup : order.Nodup)
    (hin : ∀ i ∈ order, i < s.cfg.numSegments ∧
      (s.seg i).base.toNat + s.regionSize (s.seg i) ≤ s.cfg.memSize)
    (hroom : cur + (order.map fun i => s.regionSize (s.seg i)).sum ≤ s.cfg.memSize) :
    ∃ t, compactFrom order cur s = .ok () t ∧ s.Rearranged t ∧
      (∀ j ∉ order, t.seg j = s.seg j) ∧
      ∀ p ∈ packing s order cur, t.seg p.1 = { s.seg p.1 with base := toReg32 p.2 } := by
  induction order generalizing cur s with
  | nil => exact ⟨s, rfl, .refl s, fun _ _ => rfl, nofun⟩
  | cons i rest ih =>
    obtain ⟨hi, hnodup⟩ := List.nodup_cons.1 hnodup
    obtain ⟨⟨hlt, hfrom⟩, hin⟩ := List.forall_mem_cons.1 hin
    rw [List.map_cons, List.sum_cons] at hroom
    obtain ⟨u, hu, hre, hslid, hother⟩ := slideTo_completes (cur := cur) hlt hfrom (by omega)
    have same : ∀ j ∈ rest, u.seg j = s.seg j := fun j hj => hother j (by rintro rfl; exact hi hj)
    obtain ⟨t, ht, hre', hkept, hpacked⟩ := ih (s := u) (cur := cur + s.regionSize (s.seg i)) hnodup
      (fun j hj => by rw [hre.cfg, hre.regionSize_seg, same j hj]; exact hin j hj)
      (by simp only [hre.cfg, hre.regionSize_seg]; omega)
    refine ⟨t, by rw [compactFrom, hu, Res.bind_ok, ht], hre.trans hre', fun j hj => ?_, ?_⟩
    · obtain ⟨hne, hj⟩ := not_or.1 (mt List.mem_cons.2 hj)
      rw [hkept j hj, hother j hne]
    · refine List.forall_mem_cons.2 ⟨by rw [hkept i hi, hslid], fun p hp => ?_⟩
      rw [← packing_congr fun j _ => hre.regionSize_seg j] at hp
      rw [hpacked p hp, same p.1 (by simpa using List.mem_map_of_mem (f := Prod.fst) hp)]

/-- A packing lies between `cur` and the end of its last region, one region after another. -/
theorem packing_inOrder (s : State) (order : List Nat) (cur : Nat) :
    (∀ p ∈ packing s order cur, cur ≤ p.2 ∧ p.2 + s.regionSize (s.seg p.1) ≤
      cur + (order.map fun i => s.regionSize (s.seg i)).sum) ∧
    (packing s order cur).Pairwise fun p q => p.2 + s.regionSize (s.seg p.1) ≤ q.2 := by
  induction order generalizing cur with
  | nil => exact ⟨nofun, .nil⟩
  | cons i rest ih =>
    obtain ⟨hbounds, hpairs⟩ := ih (cur + s.regionSize (s.seg i))
    refine ⟨List.forall_mem_cons.2 ⟨by simp, fun p hp => ?_⟩, List.pairwise_cons.2 ⟨?_, hpairs⟩⟩
    · have := hbounds p hp
      simp only [List.map_cons, List.sum_cons]
      omega
    · exact fun p hp => (hbounds p hp).1

/-- Two regions of a packing share no byte. -/
theorem packing_apart {order : List Nat} {cur : Nat} {p q : Nat × Nat}
    (hp : p ∈ packing s order cur) (hq : q ∈ packing s order cur) (hne : p.1 ≠ q.1) :
    p.2 + s.regionSize (s.seg p.1) ≤ q.2 ∨ q.2 + s.regionSize (s.seg q.1) ≤ p.2 := by
  have symm : Std.Symm fun p q : Nat × Nat => p.2 + s.regionSize (s.seg p.1) ≤ q.2 ∨
    q.2 + s.regionSize (s.seg q.1) ≤ p.2 := ⟨fun _ _ => Or.symm⟩
  have pairs := (packing_inOrder s order cur).2.imp (S := fun p q : Nat × Nat =>
    p.2 + s.regionSize (s.seg p.1) ≤ q.2 ∨ q.2 + s.regionSize (s.seg q.1) ≤ p.2) Or.inl
  exact pairs.forall hp hq fun he => hne (congrArg Prod.fst he)

/-- A place that has room for `n` bytes fits a 32-bit base, or is the end of the memory with no byte to hold (R33, log entry 12). -/
theorem toReg32_inside {c : Config} (h : c.wf) {a n : Nat} (ha : a + n ≤ c.memSize) :
    (toReg32 a).toNat + n ≤ c.memSize ∧ (0 < n → (toReg32 a).toNat = a) := by
  obtain ⟨-, hmem, -⟩ := h
  have size : c.memSize ≤ 2 ^ 32 := Nat.pow_le_pow_right two_pos hmem
  by_cases hfit : a < 2 ^ 32
  · rw [toReg32_of_lt a hfit]
    exact ⟨ha, fun _ => rfl⟩
  · have := (toReg32 a).isLt
    exact ⟨by omega, fun _ => by omega⟩

/-- Compaction of a sound state completes in a sound state with the regions packed from address 0, the space above them free (R163, R176). -/
theorem compact_completes (h : s.Sound) : ∃ t, compact s = .ok () t ∧ s.Rearranged t ∧ t.Sound ∧
    ∀ size, usedBytes s + size ≤ s.cfg.memSize → freeAt t size (usedBytes s) := by
  have room : 0 + usedBytes s ≤ s.cfg.memSize := by
    have := h.totalFree_add_usedBytes
    omega
  obtain ⟨t, ht, hre, hkept, hpacked⟩ := compactFrom_completes (s := s) (order := validOrder s)
    (cur := 0) h.validOrder_nodup (fun i hi => by
      have hv := (h.mem_validOrder i).1 hi
      exact ⟨h.lt_of_valid hv, (h.seg i (h.lt_of_valid hv) hv).1⟩) room
  have bounds := (packing_inOrder s (validOrder s) 0).1
  have place {i : Nat} (hv : (t.seg i).valid = true) : ∃ c, (i, c) ∈ packing s (validOrder s) 0 ∧
      c + s.regionSize (s.seg i) ≤ usedBytes s ∧ (t.seg i).base = toReg32 c := by
    have hi : i ∈ validOrder s := (h.mem_validOrder i).2 (hre.valid hv)
    rw [← packing_selectors s (validOrder s) 0] at hi
    obtain ⟨⟨i, c⟩, hp, rfl⟩ := List.mem_map.1 hi
    have := (bounds _ hp).2
    exact ⟨c, hp, by simpa [usedBytes] using this, by rw [hpacked _ hp]⟩
  have inside {i c : Nat} (hc : c + s.regionSize (s.seg i) ≤ usedBytes s) :=
    toReg32_inside h.params (show c + s.regionSize (s.seg i) ≤ s.cfg.memSize by omega)
  have iSeg : t.iSeg := by
    intro i _ hv
    obtain ⟨c, hp, hc, hbase⟩ := place hv
    rw [hre.regionSize_seg, hre.cfg, hbase]
    refine ⟨(inside hc).1, fun j _ hne hvj hpos hpos' => ?_⟩
    obtain ⟨c', hp', hc', hbase'⟩ := place hvj
    rw [hre.regionSize_seg] at hpos' ⊢
    rw [hbase', (inside hc).2 hpos, (inside hc').2 hpos']
    exact packing_apart hp hp' hne
  refine ⟨t, ht, hre, hre.sound h iSeg, fun size hsize => ⟨by rw [hre.cfg]; exact hsize, ?_⟩⟩
  intro i _ hv _ hpos
  obtain ⟨c, -, hc, hbase⟩ := place hv
  rw [hre.regionSize_seg] at hpos ⊢
  rw [hbase, (inside hc).2 hpos]
  exact .inr hc

/-! ### Allocation (R165, R169) -/

/-- A request that fits the memory is placed in free space, in a sound state. -/
theorem allocate_completes (h : s.Sound) {size : Nat} (hpos : 1 ≤ size)
    (hsize : size ≤ s.cfg.memSize) :
    ∃ a t, allocate size s = .ok a t ∧ s.Rearranged t ∧ t.Sound ∧ freeAt t size a := by
  cases hfit : firstFit size s with
  | some a =>
    exact ⟨a, s, (allocate_eq_ok _ _ _ _).2 (.inl ⟨hfit, rfl⟩), .refl s, h, h.firstFit_freeAt hfit⟩
  | none =>
    obtain ⟨u, hu, hre, hsound, hfree⟩ : ∃ u, (if size ≤ totalFree s then s
        else evictUntil size (victimOrder s) s) = u ∧ s.Rearranged u ∧ u.Sound ∧
        size ≤ totalFree u := by
      refine ⟨_, rfl, ?_⟩
      split
      next hroom => exact ⟨.refl s, h, hroom⟩
      next =>
        exact evictUntil_makes_room h hsize (fun i hv => (h.mem_victimOrder i).2 hv)
          fun i hi => h.lt_of_valid ((h.mem_victimOrder i).1 hi)
    obtain ⟨t, ht, hre', hsound', hpacked⟩ := compact_completes hsound
    have hused := hsound.totalFree_add_usedBytes
    obtain ⟨a, ha⟩ := hsound'.firstFit_of_freeAt hpos (hpacked size (by omega))
    exact ⟨a, t, (allocate_eq_ok _ _ _ _).2 (.inr ⟨hfit, ha, by rw [hu]; exact ht⟩),
      hre.trans hre', hsound', hsound'.firstFit_freeAt ha⟩

end

end Sys2Proof.Machine

/-! ## Pages and frames of the devices (R5) -/

namespace Sys2Proof

/-- The page of an offset inside the backing store is a page of the table (R10, R94). -/
theorem Config.page_lt {c : Config} (h : c.wf) {off : Nat} (hoff : off < c.diskSize) :
    off / c.pageSize < c.numVPages := by
  obtain ⟨-, -, hpage, -⟩ := h
  exact Nat.div_lt_div_of_lt_of_dvd (Nat.pow_dvd_pow 2 hpage) hoff

/-- The bytes of a page lie inside the backing store. -/
theorem Config.page_inside {c : Config} {v : Nat} (hv : v < c.numVPages) :
    v * c.pageSize + c.pageSize ≤ c.diskSize := by
  have := Nat.mul_le_of_le_div _ _ _ (Nat.succ_le_of_lt hv)
  rwa [Nat.succ_mul] at this

/-- The bytes of a frame lie inside ResidentMemory. -/
theorem Config.frame_inside {c : Config} {f : Nat} (hf : f < c.numFrames) :
    f * c.pageSize + c.pageSize ≤ c.memSize := by
  have := Nat.mul_le_of_le_div _ _ _ (Nat.succ_le_of_lt hf)
  rwa [Nat.succ_mul] at this

end Sys2Proof

namespace Sys2Proof.Machine

/-! ## Updates that keep a state sound -/

section
variable {s t : State}

theorem State.Sound.with_clock (h : s.Sound) {c : Stamp} (hc : s.clock ≤ c) :
    ({ s with clock := c }).Sound := by
  obtain ⟨hsegs, hpages, hframes⟩ := h.fields
  refine { h with
    fields := ⟨fun i hi => ⟨(hsegs i hi).1, BitVec.le_trans (hsegs i hi).2 hc⟩, hpages,
      fun f hf => ⟨(hframes f hf).1, BitVec.le_trans (hframes f hf).2 hc⟩⟩
    fatal := fun hf => ?_ }
  have now := h.fatal hf
  have later : s.clock.toNat ≤ c.toNat := hc
  change 2 ^ 64 ≤ c.toNat + s.cfg.numFrames + 1 + s.cfg.numVPages
  omega

/-- `MemWrite` inside ResidentMemory completes, and writes memory and trace alone (R64). -/
theorem memWrite_completes {a : Nat} {v : List Byte} (h : a + v.length ≤ s.cfg.memSize) :
    ∃ t, Machine.memWrite a v s = .ok () t ∧ t = { s with mem := t.mem, trace := t.trace } := by
  refine ⟨_, (memWrite_eq_ok _ _ _ _ _).2 ⟨h, rfl⟩, ?_⟩
  split
  · rfl
  · rfl

/-- A bounded write to memory, and events, touch no table. -/
theorem State.Sound.memWrite (h : s.Sound) {a : Nat} {v : List Byte}
    (hw : memWrite a v s = .ok () t) : t.Sound := by
  obtain ⟨hinside, rfl⟩ := (memWrite_eq_ok _ _ _ _ _).1 hw
  split
  · exact h
  · obtain ⟨hst, hpt, hrpt, hwf, hkeys⟩ := h.canonical
    exact { h with
      canonical := ⟨hst, hpt, hrpt, Memory.wf_write _ _ _ hwf,
        Memory.keys_write _ _ _ _ hkeys hinside⟩ }

/-- Writing a descriptor that is legal where it stands (R33, R42, R46). -/
theorem State.Sound.setSeg (h : s.Sound) {i : Nat} {d : Descriptor} (hi : i < s.cfg.numSegments)
    (hdisk : d.populated = true → d.diskBase.toNat + d.limit.toNat ≤ s.cfg.diskSize)
    (hpopulated : d.valid = true → d.populated = true) (hts : d.ts ≤ s.clock)
    (hregion : d.valid = true → d.base.toNat + s.regionSize d ≤ s.cfg.memSize ∧
      ∀ j < s.cfg.numSegments, j ≠ i → (s.seg j).valid = true →
        apart d.base.toNat (s.regionSize d) (s.seg j).base.toNat (s.regionSize (s.seg j)))
    (hpages : s.mode.pag = true → d.valid = true → d.limit ≠ 0 → ∀ v < s.cfg.numVPages,
      firstPage s.cfg d ≤ v → v ≤ lastPage s.cfg d → (s.page v).populated = true) :
    (s.setSeg i d).Sound := by
  obtain ⟨⟨hwf, hkeys⟩, hrest⟩ := h.canonical
  have either (j : Nat) : j = i ∧ (s.setSeg i d).seg j = d ∨
      j ≠ i ∧ (s.setSeg i d).seg j = s.seg j := by
    by_cases hj : j = i
    · exact .inl ⟨hj, by rw [hj, State.setSeg_seg_same]⟩
    · exact .inr ⟨hj, State.setSeg_seg_other _ _ _ _ hj⟩
  refine { h with
    canonical := ⟨⟨Sparse.wf_set _ _ _ _ hwf, Sparse.keys_set _ _ _ _ _ hkeys hi⟩, hrest⟩
    seg := fun j hj hv => ?seg
    disk := fun j hj hp => ?disk
    pop := fun hp j hj hv => ?pop
    fields := ⟨fun j hj => ?fields, h.fields.2⟩ }
  case seg =>
    obtain ⟨rfl, hd⟩ | ⟨hne, hd⟩ := either j
    · rw [hd] at hv ⊢
      refine ⟨(hregion hv).1, fun k hk hjk hvk => ?_⟩
      rw [State.setSeg_seg_other _ _ _ _ hjk.symm] at hvk ⊢
      exact (hregion hv).2 k hk hjk.symm hvk
    · rw [hd] at hv ⊢
      refine ⟨(h.seg j hj hv).1, fun k hk hjk hvk => ?_⟩
      obtain ⟨rfl, hdk⟩ | ⟨-, hdk⟩ := either k
      · rw [hdk] at hvk ⊢
        exact fun hpos hpos' => ((hregion hvk).2 j hj hne hv hpos' hpos).symm
      · rw [hdk] at hvk ⊢
        exact (h.seg j hj hv).2 k hk hjk hvk
  case disk =>
    obtain ⟨rfl, hd⟩ | ⟨-, hd⟩ := either j
    · rw [hd] at hp ⊢; exact hdisk hp
    · rw [hd] at hp ⊢; exact h.disk j hj hp
  case pop =>
    obtain ⟨rfl, hd⟩ | ⟨-, hd⟩ := either j
    · rw [hd] at hv ⊢; exact hpages hp hv
    · rw [hd] at hv ⊢; exact h.pop hp j hj hv
  case fields =>
    obtain ⟨rfl, hd⟩ | ⟨-, hd⟩ := either j
    · rw [hd]; exact ⟨hpopulated, hts⟩
    · rw [hd]; exact h.fields.1 j hj

/-- Writing one page entry and one frame entry that are legal where they stand and agree with the rest (R36, R38, R43). -/
theorem State.Sound.setEntries (h : s.Sound) {v f : Nat} {e : PageEntry} {x : FrameEntry}
    (hv : v < s.cfg.numVPages) (hf : f < s.cfg.numFrames)
    (hpop : e.populated = (s.page v).populated) (hframe : e.frame < s.cfg.numFrames)
    (howner : x.owner < s.cfg.numVPages) (hts : x.ts ≤ s.clock)
    (hpage : ((s.setPage v e).setFrame f x).iPage) : ((s.setPage v e).setFrame f x).Sound := by
  obtain ⟨hst, ⟨hpt, hptk⟩, ⟨hrpt, hrptk⟩, hmem⟩ := h.canonical
  obtain ⟨hsegs, hpages, hframes⟩ := h.fields
  refine { h with
    canonical := ⟨hst, ⟨Sparse.wf_set _ _ _ _ hpt, Sparse.keys_set _ _ _ _ _ hptk hv⟩,
      ⟨Sparse.wf_set _ _ _ _ hrpt, Sparse.keys_set _ _ _ _ _ hrptk hf⟩, hmem⟩
    page := hpage
    pop := fun hp i hi hvalid hlimit w hw hlow hhigh => ?pop
    fields := ⟨hsegs, fun w hw => ?pages, fun g hg => ?frames⟩ }
  case pop =>
    have before := h.pop hp i hi hvalid hlimit w hw hlow hhigh
    by_cases hwv : w = v
    · subst hwv; simpa [hpop] using before
    · simpa [State.setPage_page_other _ _ _ _ hwv] using before
  case pages =>
    by_cases hwv : w = v
    · subst hwv; simpa using hframe
    · simpa [State.setPage_page_other _ _ _ _ hwv] using hpages w hw
  case frames =>
    by_cases hgf : g = f
    · subst hgf; simpa using And.intro howner hts
    · simpa [State.setFrame_frame_other _ _ _ _ hgf] using hframes g hg

/-- A page that leaves its frame: the frame is free and the page not resident, both tables together (R196, R221). -/
theorem State.Sound.release (h : s.Sound) {v f : Nat} (hv : v < s.cfg.numVPages)
    (hres : (s.page v).resident = true) (hframe : (s.page v).frame = f) :
    ((s.setPage v { s.page v with resident := false }).setFrame f
      { s.frame f with resident := false, owner := 0 }).Sound := by
  obtain ⟨hf, -, howner⟩ := h.page.1 v hv hres
  rw [hframe] at hf howner
  refine h.setEntries hv hf rfl (h.fields.2.1 v hv) (Config.numVPages_pos h.params)
    (h.fields.2.2 f hf).2 ⟨fun w hw hr => ?_, fun g hg hr => ?_⟩
  · have hwv : w ≠ v := by rintro rfl; simp at hr
    simp only [State.setFrame_page, State.setPage_page_other _ _ _ _ hwv] at hr ⊢
    obtain ⟨hlt, hres', howner'⟩ := h.page.1 w hw hr
    have hne : (s.page w).frame ≠ f := by
      intro he
      rw [he] at howner'
      exact hwv (howner'.symm.trans howner)
    rw [State.setFrame_frame_other _ _ _ _ hne]
    exact ⟨hlt, hres', howner'⟩
  · have hgf : g ≠ f := by rintro rfl; simp at hr
    rw [State.setFrame_frame_other _ _ _ _ hgf] at hr ⊢
    obtain ⟨hlt, hres', hframe'⟩ := h.page.2 g hg hr
    have hne : (s.frame g).owner ≠ v := by
      intro he
      rw [he] at hframe'
      exact hgf (hframe'.symm.trans hframe)
    simp only [State.setFrame_page, State.setPage_frame, State.setPage_page_other _ _ _ _ hne]
    exact ⟨hlt, hres', hframe'⟩

/-- A page that is not resident taken into a free frame (R198). -/
theorem State.Sound.assign (h : s.Sound) {v f : Nat} (hv : v < s.cfg.numVPages)
    (hf : f < s.cfg.numFrames) (hres : (s.page v).resident = false)
    (hfree : (s.frame f).resident = false) :
    ((s.setPage v { s.page v with frame := f, resident := true }).setFrame f
      { s.frame f with owner := v, resident := true }).Sound := by
  refine h.setEntries hv hf rfl hf hv (h.fields.2.2 f hf).2 ⟨fun w hw hr => ?_, fun g hg hr => ?_⟩
  · by_cases hwv : w = v
    · subst hwv; simp [hf]
    simp only [State.setFrame_page, State.setPage_page_other _ _ _ _ hwv] at hr ⊢
    obtain ⟨hlt, hres', howner'⟩ := h.page.1 w hw hr
    have hne : (s.page w).frame ≠ f := by
      intro he
      rw [he, hfree] at hres'
      nomatch hres'
    rw [State.setFrame_frame_other _ _ _ _ hne]
    exact ⟨hlt, hres', howner'⟩
  · by_cases hgf : g = f
    · subst hgf; simp [hv]
    rw [State.setFrame_frame_other _ _ _ _ hgf] at hr ⊢
    obtain ⟨hlt, hres', hframe'⟩ := h.page.2 g hg hr
    have hne : (s.frame g).owner ≠ v := by
      intro he
      rw [he, hres] at hres'
      nomatch hres'
    simp only [State.setFrame_page, State.setPage_frame, State.setPage_page_other _ _ _ _ hne]
    exact ⟨hlt, hres', hframe'⟩

theorem State.Sound.setFrame_ts (h : s.Sound) {f : Nat} (hf : f < s.cfg.numFrames) {c : Stamp}
    (hc : c ≤ s.clock) : (s.setFrame f { s.frame f with ts := c }).Sound := by
  obtain ⟨hst, hpt, ⟨hrpt, hrptk⟩, hmem⟩ := h.canonical
  obtain ⟨hsegs, hpages, hframes⟩ := h.fields
  have same (g : Nat) : ((s.setFrame f { s.frame f with ts := c }).frame g).resident =
      (s.frame g).resident ∧ ((s.setFrame f { s.frame f with ts := c }).frame g).owner =
      (s.frame g).owner := by
    by_cases hgf : g = f
    · subst hgf; simp
    · simp [State.setFrame_frame_other _ _ _ _ hgf]
  refine { h with
    canonical := ⟨hst, hpt, ⟨Sparse.wf_set _ _ _ _ hrpt, Sparse.keys_set _ _ _ _ _ hrptk hf⟩, hmem⟩
    page := ⟨fun v hv hr => ?_, fun g hg hr => ?_⟩
    fields := ⟨hsegs, hpages, fun g hg => ?_⟩ }
  · obtain ⟨hlt, hres, howner⟩ := h.page.1 v hv hr
    exact ⟨hlt, (same _).1.trans hres, (same _).2.trans howner⟩
  · rw [(same g).1] at hr
    rw [(same g).2]
    exact h.page.2 g hg hr
  · refine ⟨by rw [(same g).2]; exact (hframes g hg).1, ?_⟩
    by_cases hgf : g = f
    · subst hgf; simpa using hc
    · simpa [State.setFrame_frame_other _ _ _ _ hgf] using (hframes g hg).2

theorem populatePages_completes {v n : Nat} (h : v + n ≤ s.cfg.numVPages) :
    ∃ t, Machine.populatePages v n s = .ok () t ∧ t = { s with pt := t.pt } :=
  ⟨{ s with pt := _ }, (populatePages_eq_ok _ _ _ _).2 ⟨h, rfl, rfl⟩, rfl⟩

/-- Marking pages of the table populated (R168, R216). -/
theorem State.Sound.populatePages (h : s.Sound) {v n : Nat}
    (hp : populatePages v n s = .ok () t) : t.Sound := by
  obtain ⟨hin, ht, hpt⟩ := (populatePages_eq_ok _ _ _ _).1 hp
  have page (w : Nat) : (t.page w).resident = (s.page w).resident ∧
      (t.page w).frame = (s.page w).frame ∧
      ((s.page w).populated = true → (t.page w).populated = true) := by
    rw [populatePages_page _ _ _ _ hp w]
    split
    · exact ⟨rfl, rfl, fun _ => rfl⟩
    · exact ⟨rfl, rfl, id⟩
  obtain ⟨hst, ⟨hwf, hkeys⟩, hrest⟩ := h.canonical
  have table : Sparse.wf PageEntry.empty t.pt ∧ ∀ p ∈ t.pt, p.1 < s.cfg.numVPages := by
    rw [hpt]
    exact ⟨Sparse.wf_setRange _ _ _ _ hwf,
      Sparse.keys_setRange _ _ _ _ _ hkeys (by simpa using hin)⟩
  rw [ht] at page ⊢
  refine { h with
    canonical := ⟨hst, table, hrest⟩
    page := ⟨fun w hw hr => ?_, fun g hg hr => ?_⟩
    pop := fun hpag i hi hv hl w hw hlow hhigh =>
      (page w).2.2 (h.pop hpag i hi hv hl w hw hlow hhigh)
    fields := ⟨h.fields.1, fun w hw => ?_, h.fields.2.2⟩ }
  · rw [(page w).1] at hr
    rw [(page w).2.1]
    exact h.page.1 w hw hr
  · obtain ⟨hlt, hres, hframe⟩ := h.page.2 g hg hr
    exact ⟨hlt, (page _).1.trans hres, (page _).2.1.trans hframe⟩
  · rw [(page w).2.1]
    exact h.fields.2.1 w hw

end

end Sys2Proof.Machine

namespace Sys2Proof.Machine

/-! ## Work and its stamps (R31, R131) -/

/-- Work begun with CLOCK at `c` that makes exactly `n` stamps: where CLOCK has room for them it completes as `Q` says with CLOCK moved on by `n`, and where it has not the command is to be refused (93 U9). -/
def Res.Stamps {α : Type} (c : Stamp) (n : Nat) (Q : α → State → Prop) (r : Res α) : Prop :=
  (c.toNat + n < 2 ^ 64 → ∃ a t, r = .ok a t ∧ t.clock.toNat = c.toNat + n ∧ Q a t) ∧
    (2 ^ 64 ≤ c.toNat + n → r = .exhausted)

section
variable {α β : Type} {c : Stamp} {m n : Nat} {P Q : α → State → Prop} {r : Res α}

theorem Res.Stamps.ok {a : α} {t : State} (hc : t.clock = c) (hq : Q a t) :
    (Res.ok a t).Stamps c 0 Q := by
  have := c.isLt
  exact ⟨fun _ => ⟨a, t, rfl, by rw [hc, Nat.add_zero], hq⟩, fun h => by omega⟩

/-- The stamps of a sequence are those of its parts. -/
theorem Res.Stamps.bind {Q : β → State → Prop} {g : α → State → Res β} (hr : r.Stamps c m P)
    (hg : ∀ a u, P a u → (g a u).Stamps u.clock n Q) : (r.bind g).Stamps c (m + n) Q := by
  obtain ⟨hroom, hfull⟩ := hr
  by_cases hm : c.toNat + m < 2 ^ 64
  · obtain ⟨a, u, rfl, hc, hp⟩ := hroom hm
    have hgu := hg a u hp
    unfold Res.Stamps at hgu
    rw [hc, Nat.add_assoc] at hgu
    exact hgu
  · rw [hfull (by omega)]
    exact ⟨fun h => by omega, fun _ => rfl⟩

theorem Res.Stamps.mono (hr : r.Stamps c n P) (h : ∀ a t, P a t → Q a t) : r.Stamps c n Q := by
  refine ⟨fun hroom => ?_, hr.2⟩
  obtain ⟨a, t, hok, hc, hp⟩ := hr.1 hroom
  exact ⟨a, t, hok, hc, h a t hp⟩

/-- Work keeps what holds wherever it completes. -/
theorem Res.Stamps.and_ok {R : State → Prop} (hr : r.Stamps c n P)
    (h : ∀ a t, r = .ok a t → R t) : r.Stamps c n fun a t => P a t ∧ R t := by
  refine ⟨fun hroom => ?_, hr.2⟩
  obtain ⟨a, t, hok, hc, hp⟩ := hr.1 hroom
  exact ⟨a, t, hok, hc, hp, h a t hok⟩

theorem Stamp.eq_allOnes_iff (c : Stamp) : c = BitVec.allOnes 64 ↔ 2 ^ 64 ≤ c.toNat + 1 := by
  have := c.isLt
  rw [← BitVec.toNat_inj, BitVec.toNat_allOnes]
  omega

end

theorem stampSegment_stamps (i : Nat) (s : State) : (stampSegment i s).Stamps s.clock 1
    fun _ t => s.clock ≤ s.clock + 1 ∧
      t = ({ s with clock := s.clock + 1 }).setSeg i { s.seg i with ts := s.clock + 1 } := by
  refine ⟨fun hroom => ?_, fun hfull => ?_⟩
  · have hne : s.clock ≠ BitVec.allOnes 64 := mt (Stamp.eq_allOnes_iff _).1 (by omega)
    have hsucc := clock_succ s.clock hne
    exact ⟨(), _, (stampSegment_eq_ok _ _ _ _).2 ⟨hne, rfl⟩, hsucc,
      BitVec.le_def.2 (by omega), rfl⟩
  · exact (stampSegment_eq_exhausted _ _).2 ((Stamp.eq_allOnes_iff _).2 hfull)

theorem stampFrame_stamps (f : Nat) (s : State) : (stampFrame f s).Stamps s.clock 1
    fun _ t => s.clock ≤ s.clock + 1 ∧
      t = ({ s with clock := s.clock + 1 }).setFrame f { s.frame f with ts := s.clock + 1 } := by
  refine ⟨fun hroom => ?_, fun hfull => ?_⟩
  · have hne : s.clock ≠ BitVec.allOnes 64 := mt (Stamp.eq_allOnes_iff _).1 (by omega)
    have hsucc := clock_succ s.clock hne
    exact ⟨(), _, (stampFrame_eq_ok _ _ _ _).2 ⟨hne, rfl⟩, hsucc,
      BitVec.le_def.2 (by omega), rfl⟩
  · exact (stampFrame_eq_exhausted _ _).2 ((Stamp.eq_allOnes_iff _).2 hfull)

/-! ## States within a command -/

/-- A state that a command may pass through: sound, its working registers inside their widths. -/
structure State.Working (s : State) : Prop where
  sound : s.Sound
  registers : s.registersFit

section
variable {s t u : State}

/-- The sequencer's registers may change in every way that keeps their widths. -/
theorem State.Working.with_seq (h : s.Working) {q : Seq} (hvpn : q.vpn < s.cfg.numVPages)
    (hpoff : q.poff < s.cfg.pageSize) (hframe : q.frame < s.cfg.numFrames) :
    ({ s with seq := q }).Working := ⟨{ h.sound with }, hvpn, hpoff, hframe⟩

theorem State.Working.enter (h : s.Working) (q : Fsm) : (s.enter q).Working :=
  ⟨{ h.sound with }, h.registers⟩

/-- Updates of the sequencer's other registers keep the working registers. -/
theorem State.Working.of_seq (h : s.Working) (ht : t = { s with seq := t.seq })
    (hregs : t.seq.vpn = s.seq.vpn ∧ t.seq.poff = s.seq.poff ∧ t.seq.frame = s.seq.frame) :
    t.Working := by
  obtain ⟨hvpn, hpoff, hframe⟩ := hregs
  obtain ⟨hvpn', hpoff', hframe'⟩ := h.registers
  rw [ht]
  exact h.with_seq (hvpn ▸ hvpn') (hpoff ▸ hpoff') (hframe ▸ hframe')

theorem State.Working.linear (h : s.Working) (lin : Nat) (len : Word32) :
    (s.linear lin len).Working := h.of_seq rfl ⟨rfl, rfl, rfl⟩

theorem State.Working.physical (h : s.Working) (phys : Nat) : (s.physical phys).Working :=
  h.of_seq rfl ⟨rfl, rfl, rfl⟩

theorem State.Working.emit (h : s.Working) (e : Event) : (s.emit e).Working :=
  ⟨{ h.sound with }, h.registers⟩

theorem State.Working.setResult (h : s.Working) (bytes : List Byte) :
    (s.setResult bytes).Working := h.of_seq rfl ⟨rfl, rfl, rfl⟩

/-- Sound updates beside the sequencer keep a state working. -/
theorem State.Working.of_sound (h : s.Working) (ht : t.Sound) (hcfg : t.cfg = s.cfg)
    (hseq : t.seq = s.seq) : t.Working :=
  ⟨ht, by unfold State.registersFit; rw [hseq, hcfg]; exact h.registers⟩

/-- State `t` is `s` after page visits: parameters, mode, segment table and port are the same, and no page entry changes its populated flag. -/
structure State.Repaged (s t : State) : Prop where
  frame : t = { s with
    clock := t.clock, pt := t.pt, rpt := t.rpt, mem := t.mem, seq := t.seq, trace := t.trace }
  populated : ∀ v, (t.page v).populated = (s.page v).populated

theorem State.Repaged.trans (h : s.Repaged t) (h' : t.Repaged u) : s.Repaged u where
  frame := by rw [h'.frame, h.frame]
  populated v := (h'.populated v).trans (h.populated v)

theorem State.Repaged.cfg (h : s.Repaged t) : t.cfg = s.cfg := by rw [h.frame]
theorem State.Repaged.st (h : s.Repaged t) : t.st = s.st := by rw [h.frame]
theorem State.Repaged.mode (h : s.Repaged t) : t.mode = s.mode := by rw [h.frame]

/-! ## The page table (R191 to R199) -/

theorem foldl_range_lt {n : Nat} {g : Nat → Nat → Nat} (l : List Nat) (a : Nat) (ha : a < n)
    (hl : ∀ f ∈ l, f < n) (hg : ∀ b f, g b f = b ∨ g b f = f) : l.foldl g a < n := by
  induction l generalizing a with
  | nil => exact ha
  | cons f l ih =>
    obtain ⟨hf, hl⟩ := List.forall_mem_cons.1 hl
    refine ih (g a f) ?_ hl
    rcases hg a f with h | h <;> omega

/-- The frame to be freed is a frame of the table (R195). -/
theorem oldestFrame_lt (h : s.Sound) : oldestFrame s < s.cfg.numFrames := by
  have hpos := Config.numFrames_pos h.params
  refine foldl_range_lt _ _ hpos (fun f hf => ?_) fun b f => ?_
  · rw [List.mem_range'_1] at hf
    omega
  · split
    · exact .inr rfl
    · exact .inl rfl

/-- The choice of a frame completes with a free one, in a sound state in which no page became resident (R194 to R196). -/
theorem chooseFrame_completes (h : s.Sound) : ∃ f t, chooseFrame s = .ok f t ∧
    f < s.cfg.numFrames ∧ (t.frame f).resident = false ∧ t = { s with pt := t.pt, rpt := t.rpt } ∧
    t.Sound ∧ ∀ v, (t.page v).populated = (s.page v).populated ∧
      ((s.page v).resident = false → (t.page v).resident = false) := by
  cases hfree : freeFrame s s.cfg.numFrames 0 with
  | some f =>
    obtain ⟨-, hlt, hres, -⟩ := (freeFrame_eq_some _ _ _ _).1 hfree
    exact ⟨f, s, (chooseFrame_eq_ok _ _ _).2 (.inl ⟨hfree, rfl⟩), by omega, hres, rfl, h,
      fun _ => ⟨rfl, id⟩⟩
  | none =>
    have hlt := oldestFrame_lt h
    have hres := (freeFrame_eq_none _ _ _).1 hfree (oldestFrame s) (Nat.zero_le _) (by omega)
    obtain ⟨howner, hpage, hframe⟩ := h.page.2 _ hlt hres
    refine ⟨_, _, (chooseFrame_eq_ok _ _ _).2 (.inr ⟨hfree, rfl, (evictPage_eq_ok _ _ _).2
      ⟨hpage, hframe, rfl⟩⟩), hlt, by simp, rfl, h.release howner hpage hframe, fun v => ?_⟩
    rw [State.setFrame_page, State.setPage_page]
    split
    next hv => subst hv; exact ⟨rfl, fun _ => rfl⟩
    next => exact ⟨rfl, id⟩

/-- A page fault on a page of the table that is not resident completes in a sound state (R191, R198). -/
theorem pageFault_completes (h : s.Sound) {v : Nat} (hv : v < s.cfg.numVPages)
    (hres : (s.page v).resident = false) : ∃ f t, pageFault v s = .ok f t ∧
    f < s.cfg.numFrames ∧ t = { s with pt := t.pt, rpt := t.rpt, mem := t.mem, trace := t.trace } ∧
    t.Sound ∧ ∀ w, (t.page w).populated = (s.page w).populated := by
  obtain ⟨f, u, hchoose, hf, hfree, hu, hsound, hpages⟩ := chooseFrame_completes h
  have hcfg : u.cfg = s.cfg := by rw [hu]
  have inside := Config.frame_inside hf
  obtain ⟨w, hw, (hwu : w = { u with mem := w.mem, trace := w.trace })⟩ :=
    memWrite_completes (a := f * u.cfg.pageSize)
    (v := Memory.readRange u.cfg.disk (v * u.cfg.pageSize) u.cfg.pageSize)
    (s := u.emit (.bsRead (toReg32 (v * u.cfg.pageSize)) (toReg32 u.cfg.pageSize)))
    (by simpa [hcfg] using inside)
  have logged : (u.emit (.bsRead (toReg32 (v * u.cfg.pageSize)) (toReg32 u.cfg.pageSize))).Sound :=
    { hsound with }
  have hwsound : w.Sound := logged.memWrite hw
  have page (x : Nat) : w.page x = u.page x := by rw [hwu]; rfl
  have frame (x : Nat) : w.frame x = u.frame x := by rw [hwu]; rfl
  have hwcfg : w.cfg = s.cfg := by rw [hwu, ← hcfg]
  refine ⟨f, _, (pageFault_eq_ok _ _ _ _).2 ⟨u, w, hchoose, ?_, hw, rfl⟩, hf, ?_, ?_, fun x => ?_⟩
  · rw [hcfg]; exact Config.page_inside hv
  · rw [hwu, hu]; rfl
  · exact hwsound.assign (by rwa [hwcfg]) (by rwa [hwcfg]) (by rw [page]; exact (hpages v).2 hres)
      (by rw [frame]; exact hfree)
  · rw [State.setFrame_page, State.setPage_page, page]
    split
    next hx => subst hx; exact (hpages x).1
    next => rw [page]; exact (hpages x).1

theorem ensurePage_of_hit {visit : Bool} {v f : Nat} (h : pageLookup v s = .ok (some f) s) :
    ensurePage visit v s = (stampFrame f s).bind fun _ u => .ok f u := by
  rw [ensurePage, h]; rfl

theorem ensurePage_of_miss {visit : Bool} {v : Nat} (h : pageLookup v s = .ok none s) :
    ensurePage visit v s = (pageFault v (if visit then s.enter .pageFault else s)).bind
      fun f u => (stampFrame f u).bind fun _ w => .ok f w := by
  rw [ensurePage, h]; rfl

/-- A frame's stamp, the last part of `EnsurePage` (R199). -/
theorem stampFrame_working {f : Nat} (hf : f < s.cfg.numFrames) (ht : s.Repaged t)
    (hw : t.Working) : ((stampFrame f t).bind fun _ u => Res.ok f u).Stamps t.clock 1
      fun f u => f < s.cfg.numFrames ∧ s.Repaged u ∧ u.Working := by
  refine (stampFrame_stamps f t).bind (n := 0) fun _ u hu => ?_
  obtain ⟨hle, rfl⟩ := hu
  rw [← ht.cfg] at hf
  refine .ok rfl ⟨ht.cfg ▸ hf, ht.trans ⟨rfl, fun _ => rfl⟩, hw.of_sound ?_ rfl rfl⟩
  exact (hw.sound.with_clock hle).setFrame_ts hf (BitVec.le_refl _)

/-- `EnsurePage` of a populated page answers a frame of the table and makes one stamp (R191, R199). -/
theorem ensurePage_stamps (h : s.Working) (visit : Bool) {v : Nat} (hv : v < s.cfg.numVPages)
    (hpop : (s.page v).populated = true) : (ensurePage visit v s).Stamps s.clock 1
      fun f t => f < s.cfg.numFrames ∧ s.Repaged t ∧ t.Working := by
  by_cases hres : (s.page v).resident = true
  · obtain ⟨hlt, hframe, howner⟩ := h.sound.page.1 v hv hres
    rw [ensurePage_of_hit
      ((pageLookup_eq_some v _ s s).2 ⟨hv, hpop, hres, rfl, hlt, hframe, howner, rfl⟩)]
    exact stampFrame_working hlt ⟨rfl, fun _ => rfl⟩ h
  · simp only [Bool.not_eq_true] at hres
    rw [ensurePage_of_miss ((pageLookup_eq_none v s s).2 ⟨hv, hpop, hres, rfl⟩)]
    have entered : (if visit then s.enter .pageFault else s).Working ∧
        (if visit then s.enter .pageFault else s) = { s with
          seq := (if visit then s.enter .pageFault else s).seq } := by
      cases visit
      · exact ⟨h, rfl⟩
      · exact ⟨h.enter _, rfl⟩
    obtain ⟨hwork, hent⟩ := entered
    generalize (if visit then s.enter .pageFault else s) = e at hwork hent ⊢
    obtain ⟨f, t, hfault, hf, ht, hsound, hpages⟩ := pageFault_completes hwork.sound
      (v := v) (by rw [hent]; exact hv) (by rw [hent]; exact hres)
    have hclock : t.clock = s.clock := by rw [ht, hent]
    have repaged : s.Repaged t := ⟨by rw [ht, hent], fun w => by rw [hpages w, hent]; rfl⟩
    rw [hfault, Res.bind_ok, ← hclock]
    exact stampFrame_working (by rw [hent] at hf; exact hf) repaged
      (hwork.of_sound hsound (by rw [ht]) (by rw [ht]))

/-- Loading populated pages makes one stamp for each (R131, R168). -/
theorem loadPages_stamps (h : s.Working) (n v : Nat) (hin : v + n ≤ s.cfg.numVPages)
    (hpop : ∀ w, v ≤ w → w < v + n → (s.page w).populated = true) :
    (loadPages n v s).Stamps s.clock n fun _ t => s.Repaged t ∧ t.Working := by
  induction n generalizing v s with
  | zero => exact .ok rfl ⟨⟨rfl, fun _ => rfl⟩, h⟩
  | succ n ih =>
    unfold loadPages
    rw [Nat.add_comm n 1]
    refine (ensurePage_stamps h false (by omega) (hpop v (le_refl _) (by omega))).bind
      fun f u hu => ?_
    obtain ⟨-, hre, hwork⟩ := hu
    refine (ih hwork (v + 1) (by rw [hre.cfg]; omega) fun w hlow hhigh => ?_).mono
      fun _ t ht => ⟨hre.trans ht.1, ht.2⟩
    rw [hre.populated]
    exact hpop w (by omega) (by omega)

/-! ## The chunks of a paged READ (R130, R131) -/

/-- PAGE_LOOKUP of a chunk: `VPN` and `POFF` of the linear address (R94, R130). -/
def State.lookup (s : State) (lin : Nat) : State :=
  { s.enter .pageLookup with
    seq := { (s.enter .pageLookup).seq with vpn := vpnOf s.cfg lin, poff := poffOf s.cfg lin } }

/-- ACCESS of a chunk at address `phys` in frame `f` (R130). -/
def State.access (s : State) (f phys : Nat) : State :=
  (State.physical { s with seq := { s.seq with frame := f } } phys).enter .access

theorem readChunk_eq (lin n : Nat) (s : State) : readChunk lin n s =
    (ensurePage true (vpnOf s.cfg lin) (s.lookup lin)).bind fun f u =>
      (memRead (f * u.cfg.pageSize + poffOf s.cfg lin) n
        (u.access f (f * u.cfg.pageSize + poffOf s.cfg lin))).bind fun bytes w =>
        .ok () (w.setResult (w.seq.result ++ bytes)) := rfl

theorem State.Working.lookup (h : s.Working) {lin : Nat} (hlin : lin < s.cfg.diskSize) :
    (s.lookup lin).Working :=
  (h.enter .pageLookup).with_seq (Config.page_lt h.sound.params hlin)
    (Nat.mod_lt _ s.cfg.pageSize_pos) h.registers.2.2

theorem State.Working.access (h : s.Working) {f : Nat} (hf : f < s.cfg.numFrames) (phys : Nat) :
    (s.access f phys).Working :=
  h.with_seq (q := (s.access f phys).seq) h.registers.1 h.registers.2.1 hf

/-- One chunk inside a populated page makes one stamp (R130). -/
theorem readChunk_stamps (h : s.Working) {lin n : Nat} (hlin : lin < s.cfg.diskSize)
    (hn : lin % s.cfg.pageSize + n ≤ s.cfg.pageSize)
    (hpop : (s.page (lin / s.cfg.pageSize)).populated = true) :
    (readChunk lin n s).Stamps s.clock 1 fun _ t => s.Repaged t ∧ t.Working := by
  rw [readChunk_eq]
  refine (ensurePage_stamps (h.lookup hlin) true (v := vpnOf s.cfg lin)
    (Config.page_lt h.sound.params hlin) hpop).bind (n := 0) fun f u hu => ?_
  obtain ⟨hf, hre, hwork⟩ := hu
  have hcfg : u.cfg = s.cfg := hre.cfg
  have hf' : f < s.cfg.numFrames := hf
  have inside := Config.frame_inside hf'
  have read := (memRead_eq_ok (f * u.cfg.pageSize + poffOf s.cfg lin) n
    (u.access f (f * u.cfg.pageSize + poffOf s.cfg lin)) _ _).2 ⟨?_, rfl, rfl⟩
  · rw [read, Res.bind_ok]
    have accessed := hwork.access (hcfg ▸ hf') (f * u.cfg.pageSize + poffOf s.cfg lin)
    have looked : s.Repaged (s.lookup lin) := ⟨rfl, fun _ => rfl⟩
    exact .ok rfl ⟨(looked.trans hre).trans ⟨rfl, fun _ => rfl⟩, accessed.setResult _⟩
  · change f * u.cfg.pageSize + lin % s.cfg.pageSize + n ≤ u.cfg.memSize
    rw [hcfg]
    omega

/-- A first chunk, and the chunks of what is left after it (R130, R131). -/
theorem chunkCount_step {c : Config} {lin remain : Nat} (hpos : 0 < remain) :
    chunkCount c lin remain = 1 + chunkCount c (lin + chunkSize c lin remain)
      (remain - chunkSize c lin remain) := by
  have hps := c.pageSize_pos
  have hmod : lin % c.pageSize < c.pageSize := Nat.mod_lt _ hps
  have hdiv : c.pageSize * (lin / c.pageSize) + lin % c.pageSize = lin := Nat.div_add_mod _ _
  unfold chunkSize poffOf
  by_cases hlast : remain ≤ c.pageSize - lin % c.pageSize
  · have samePage : (lin + remain - 1) / c.pageSize = lin / c.pageSize := by
      rw [Nat.div_eq_iff hps, Nat.mul_comm]
      omega
    rw [Nat.min_eq_left hlast, Nat.sub_self, chunkCount, chunkCount, if_neg (by omega), if_pos rfl,
      samePage, Nat.sub_self]
  · have nextPage :
        lin + (c.pageSize - lin % c.pageSize) = c.pageSize * (lin / c.pageSize + 1) := by
      rw [Nat.mul_succ]
      omega
    have later : lin / c.pageSize + 1 ≤ (lin + remain - 1) / c.pageSize := by
      rw [Nat.le_div_iff_mul_le hps, Nat.mul_comm]
      omega
    have sameEnd : c.pageSize * (lin / c.pageSize + 1) +
        (remain - (c.pageSize - lin % c.pageSize)) - 1 = lin + remain - 1 := by omega
    rw [Nat.min_eq_right (by omega), chunkCount, chunkCount, if_neg (by omega), if_neg (by omega),
      nextPage, sameEnd, Nat.mul_div_cancel_left _ hps]
    omega

/-- The chunks of a READ inside the backing store, its pages populated, make one stamp each (R131). -/
theorem readChunks_stamps (h : s.Working) {turns lin remain : Nat} (hturns : remain ≤ turns)
    (hin : lin + remain ≤ s.cfg.diskSize)
    (hpop : ∀ a, lin ≤ a → a < lin + remain → (s.page (a / s.cfg.pageSize)).populated = true) :
    (readChunks turns lin remain s).Stamps s.clock (chunkCount s.cfg lin remain)
      fun _ t => t.Working := by
  induction turns generalizing lin remain s with
  | zero =>
    obtain rfl : remain = 0 := by omega
    exact .ok rfl h
  | succ turns ih =>
    unfold readChunks
    split
    next hzero =>
      subst hzero
      exact .ok rfl h
    next hne =>
      have hmod : lin % s.cfg.pageSize < s.cfg.pageSize := Nat.mod_lt _ s.cfg.pageSize_pos
      have hsize : 1 ≤ chunkSize s.cfg lin remain ∧ chunkSize s.cfg lin remain ≤ remain ∧
          lin % s.cfg.pageSize + chunkSize s.cfg lin remain ≤ s.cfg.pageSize := by
        unfold chunkSize poffOf
        omega
      rw [chunkCount_step (by omega)]
      generalize chunkSize s.cfg lin remain = k at hsize ⊢
      refine (readChunk_stamps h (by omega) hsize.2.2 (hpop lin (le_refl _) (by omega))).bind
        fun _ u hu => ?_
      obtain ⟨hre, hwork⟩ := hu
      have hcfg : u.cfg = s.cfg := hre.cfg
      rw [← hcfg]
      refine ih (s := u.advance (lin + k) (remain - k)) ⟨{ hwork.sound with }, hwork.registers⟩
        (by omega) (by rw [State.advance_cfg, hcfg]; omega) fun a hlow hhigh => ?_
      rw [State.advance_page, State.advance_cfg, hre.populated, hcfg]
      exact hpop a (by omega) (by omega)

end

end Sys2Proof.Machine

namespace Sys2Proof.Machine

/-! ## The pages of a segment (R10) -/

section
variable {c : Config} {d : Descriptor}

theorem limit_pos (h : d.limit ≠ 0) : 1 ≤ d.limit.toNat := by
  have : d.limit.toNat ≠ 0 := fun h0 => h (BitVec.eq_of_toNat_eq h0)
  omega

theorem firstPage_add_pageCount (h : d.limit ≠ 0) :
    firstPage c d + pageCount c d = lastPage c d + 1 := by
  have hlimit := limit_pos h
  have : firstPage c d ≤ lastPage c d := Nat.div_le_div_right (by omega)
  rw [pageCount, if_neg h]
  omega

/-- A segment inside the backing store has its pages in the table (R46). -/
theorem lastPage_lt (hwf : c.wf) (h : d.limit ≠ 0)
    (hdisk : d.diskBase.toNat + d.limit.toNat ≤ c.diskSize) : lastPage c d < c.numVPages :=
  Config.page_lt hwf (by have := limit_pos h; omega)

/-- The first half of a segment that holds bytes is one page or more, and no more than all (R8, R10). -/
theorem halfCount_bounds (h : d.limit ≠ 0) :
    1 ≤ halfCount c d ∧ halfCount c d ≤ pageCount c d := by
  have : 1 ≤ pageCount c d := by rw [pageCount, if_neg h]; omega
  unfold halfCount ceilHalf
  omega

/-- The region of a segment that holds bytes holds one or more (R10). -/
theorem regionSize_pos (s : State) (h : d.limit ≠ 0) : 1 ≤ s.regionSize d := by
  unfold State.regionSize regionSize
  split
  · exact Nat.mul_pos (halfCount_bounds h).1 s.cfg.pageSize_pos
  · exact limit_pos h

end

section
variable {s t u : State}

theorem State.regionSize_of_pag (h : s.mode.pag = true) (d : Descriptor) :
    s.regionSize d = halfCount s.cfg d * s.cfg.pageSize := by
  simp [State.regionSize, Machine.regionSize, h]

/-! ## Segment faults (R126, R167, R168) -/

/-- A free place stays free where descriptor `i`, not valid, is the one that differs. -/
theorem freeAt_congr {i size a : Nat} (h : freeAt s size a) (hcfg : t.cfg = s.cfg)
    (hmode : t.mode = s.mode) (hseg : ∀ j, j ≠ i → t.seg j = s.seg j)
    (hi : (t.seg i).valid = false) : freeAt t size a := by
  refine ⟨by rw [hcfg]; exact h.1, fun j hj hv => ?_⟩
  have hne : j ≠ i := by rintro rfl; simp [hi] at hv
  rw [hseg j hne] at hv ⊢
  rw [hcfg] at hj
  rw [State.regionSize, hcfg, hmode]
  exact h.2 j hj hv

/-- A registered segment that is not valid becomes valid at a free place (R167, R168). -/
theorem State.Sound.setSeg_valid (h : s.Sound) {i a : Nat} (hi : i < s.cfg.numSegments)
    (hpop : (s.seg i).populated = true) (hlimit : (s.seg i).limit ≠ 0)
    (hfree : freeAt s (s.regionSize (s.seg i)) a)
    (hpages : s.mode.pag = true → ∀ v, firstPage s.cfg (s.seg i) ≤ v →
      v ≤ lastPage s.cfg (s.seg i) → (s.page v).populated = true) :
    (s.setSeg i { s.seg i with base := toReg32 a, valid := true }).Sound := by
  have size : s.regionSize { s.seg i with base := toReg32 a, valid := true } =
      s.regionSize (s.seg i) := s.regionSize_congr rfl rfl
  have hpos := regionSize_pos s hlimit
  obtain ⟨hinside, hbase⟩ := toReg32_inside h.params hfree.1
  refine h.setSeg hi (fun _ => h.disk i hi hpop) (fun _ => hpop) (h.fields.1 i hi).2
    (fun _ => ⟨by rw [size]; exact hinside, fun j hj _ hv => ?_⟩)
    fun hp _ _ v _ hlow hhigh => hpages hp v hlow hhigh
  rw [size, hbase hpos]
  exact hfree.2 j hj hv

/-- State `t` is `s` with the place `a` found free for the region of descriptor `i`, which is not yet valid. -/
structure State.PlacedAt (s : State) (i a : Nat) (t : State) : Prop where
  cfg : t.cfg = s.cfg
  mode : t.mode = s.mode
  valid : (t.seg i).valid = false
  populated : (t.seg i).populated = (s.seg i).populated
  diskBase : (t.seg i).diskBase = (s.seg i).diskBase
  limit : (t.seg i).limit = (s.seg i).limit
  free : freeAt t (s.regionSize (s.seg i)) a

/-- Allocation finds a place for a region that fits the memory (R165, R169). -/
theorem allocate_placedAt (h : s.Sound) {i : Nat} (hlimit : (s.seg i).limit ≠ 0)
    (hvalid : (s.seg i).valid = false) (hsize : s.regionSize (s.seg i) ≤ s.cfg.memSize) :
    ∃ a u, allocate (s.regionSize (s.seg i)) s = .ok a u ∧ u.Sound ∧ s.PlacedAt i a u ∧
      u = { s with st := u.st, mem := u.mem, trace := u.trace } := by
  obtain ⟨a, u, halloc, hre, hsound, hfree⟩ :=
    allocate_completes h (regionSize_pos s hlimit) hsize
  obtain ⟨hpop, hdisk, hlim, -⟩ := hre.registration i
  have hinvalid : (u.seg i).valid = false := by
    by_contra hv
    simp [hre.valid (by simpa using hv)] at hvalid
  exact ⟨a, u, halloc, hsound, ⟨hre.cfg, hre.mode, hinvalid, hpop, hdisk, hlim, hfree⟩, hre.frame⟩

/-- A place stays found while the segment table is as it is. -/
theorem State.PlacedAt.of_st {i a : Nat} (h : s.PlacedAt i a t) (hcfg : u.cfg = t.cfg)
    (hmode : u.mode = t.mode) (hst : u.st = t.st) : s.PlacedAt i a u := by
  have seg (j : Nat) : u.seg j = t.seg j := by rw [State.seg, hst]; rfl
  have free := freeAt_congr (i := i) h.free hcfg hmode (fun j _ => seg j)
    (by rw [seg]; exact h.valid)
  exact ⟨hcfg.trans h.cfg, hmode.trans h.mode, by rw [seg, h.valid], by rw [seg, h.populated],
    by rw [seg, h.diskBase], by rw [seg, h.limit], free⟩

/-- Registration writes the base of the place before the segment is valid (R168). -/
theorem State.PlacedAt.setSeg_base {i a : Nat} (h : s.PlacedAt i a t) (b : Word32) :
    s.PlacedAt i a (t.setSeg i { t.seg i with base := b }) := by
  refine ⟨h.cfg, h.mode, ?_, ?_, ?_, ?_, freeAt_congr (i := i) h.free rfl rfl
    (fun j hj => State.setSeg_seg_other _ _ _ _ hj) ?_⟩
  · simpa using h.valid
  · simpa using h.populated
  · simpa using h.diskBase
  · simpa using h.limit
  · simpa using h.valid

/-- A descriptor that is not valid may get any base. -/
theorem State.Sound.setSeg_base (h : s.Sound) {i : Nat} (hi : i < s.cfg.numSegments)
    (hvalid : (s.seg i).valid = false) (b : Word32) :
    (s.setSeg i { s.seg i with base := b }).Sound :=
  h.setSeg hi (h.disk i hi) (h.fields.1 i hi).1 (h.fields.1 i hi).2 (by simp [hvalid])
    (by simp [hvalid])

/-- The segment becomes valid at the place found, in paged mode with its pages populated (R167, R168). -/
theorem State.PlacedAt.setSeg_valid {i a : Nat} (h : s.PlacedAt i a t) (ht : t.Sound)
    (hi : i < s.cfg.numSegments) (hpop : (s.seg i).populated = true)
    (hlimit : (s.seg i).limit ≠ 0)
    (hpages : s.mode.pag = true → ∀ v, firstPage s.cfg (s.seg i) ≤ v →
      v ≤ lastPage s.cfg (s.seg i) → (t.page v).populated = true) :
    (t.setSeg i { t.seg i with base := toReg32 a, valid := true }).Sound := by
  have size : t.regionSize (t.seg i) = s.regionSize (s.seg i) := by
    rw [State.regionSize, h.cfg, h.mode]
    exact s.regionSize_congr h.diskBase h.limit
  have first : firstPage t.cfg (t.seg i) = firstPage s.cfg (s.seg i) := by
    rw [firstPage, firstPage, h.cfg, h.diskBase]
  have last : lastPage t.cfg (t.seg i) = lastPage s.cfg (s.seg i) := by
    rw [lastPage, lastPage, h.cfg, h.diskBase, h.limit]
  refine ht.setSeg_valid (by rw [h.cfg]; exact hi) (h.populated.trans hpop) (h.limit ▸ hlimit)
    (by rw [size]; exact h.free) fun hp v hlow hhigh => ?_
  exact hpages (h.mode ▸ hp) v (first ▸ hlow) (last ▸ hhigh)

/-- SegmentLoad of a segment that fits the memory completes without a stamp (R167). -/
theorem segmentLoad_stamps (h : s.Working) {i : Nat} (hp : s.mode.pag = false)
    (hi : i < s.cfg.numSegments) (hpop : (s.seg i).populated = true)
    (hlimit : (s.seg i).limit ≠ 0) (hvalid : (s.seg i).valid = false)
    (hsize : s.regionSize (s.seg i) ≤ s.cfg.memSize) :
    (segmentLoad i s).Stamps s.clock 0 fun _ t => t.Working ∧ (t.seg i).valid = true := by
  obtain ⟨a, u, halloc, hsound, hplaced, hu⟩ := allocate_placedAt h.sound hlimit hvalid hsize
  have free := hplaced.free
  rw [State.regionSize_of_not_pag hp] at halloc hsize free
  have logged : (u.emit (.bsRead (s.seg i).diskBase ((s.seg i).limit.setWidth 32))).Sound :=
    { hsound with }
  obtain ⟨w, written, (hw : w = { u with mem := w.mem, trace := w.trace })⟩ :=
    memWrite_completes (a := a)
      (v := Memory.readRange u.cfg.disk (s.seg i).diskBase.toNat (s.seg i).limit.toNat)
      (s := u.emit (.bsRead (s.seg i).diskBase ((s.seg i).limit.setWidth 32)))
      (by simpa using free.1)
  have hplaced' : s.PlacedAt i a w := hplaced.of_st (by rw [hw]) (by rw [hw]) (by rw [hw])
  have valid := hplaced'.setSeg_valid (logged.memWrite written) hi hpop hlimit
    fun hpag => by simp [hp] at hpag
  rw [(segmentLoad_eq_ok _ _ _).2 ⟨a, u, w, hsize, halloc,
    by rw [hplaced.cfg]; exact h.sound.disk i hi hpop, written, rfl⟩]
  exact .ok (by rw [State.setSeg_clock, hw, hu])
    ⟨h.of_sound valid (by rw [State.setSeg_cfg, hw, hu]) (by rw [State.setSeg_seq, hw, hu]),
      by simp⟩

/-- SegmentRegister of a segment whose first half fits the memory makes one stamp for each page of that half (R131, R168). -/
theorem segmentRegister_stamps (h : s.Working) {i : Nat} (hp : s.mode.pag = true)
    (hi : i < s.cfg.numSegments) (hpop : (s.seg i).populated = true)
    (hlimit : (s.seg i).limit ≠ 0) (hvalid : (s.seg i).valid = false)
    (hsize : s.regionSize (s.seg i) ≤ s.cfg.memSize) :
    (segmentRegister i s).Stamps s.clock (halfCount s.cfg (s.seg i))
      fun _ t => t.Working ∧ (t.seg i).valid = true := by
  obtain ⟨a, u, halloc, hsound, hplaced, hu⟩ := allocate_placedAt h.sound hlimit hvalid hsize
  have lastIn := lastPage_lt h.sound.params hlimit (h.sound.disk i hi hpop)
  have pages := firstPage_add_pageCount (c := s.cfg) hlimit
  have half := halfCount_bounds (c := s.cfg) hlimit
  have based := hsound.setSeg_base (by rw [hplaced.cfg]; exact hi) hplaced.valid (toReg32 a)
  obtain ⟨w, hmarked, hw⟩ := populatePages_completes (v := firstPage s.cfg (s.seg i))
    (n := pageCount s.cfg (s.seg i)) (s := u.setSeg i { u.seg i with base := toReg32 a })
    (by rw [State.setSeg_cfg, hplaced.cfg]; omega)
  have populated (v : Nat) (hlow : firstPage s.cfg (s.seg i) ≤ v)
      (hhigh : v ≤ lastPage s.cfg (s.seg i)) : (w.page v).populated = true := by
    rw [populatePages_page _ _ _ _ hmarked, if_pos ⟨hlow, by omega⟩]
  have hcfg : w.cfg = s.cfg := by rw [hw, State.setSeg_cfg, hplaced.cfg]
  have hclock : w.clock = s.clock := by rw [hw, State.setSeg_clock, hu]
  have work : w.Working := h.of_sound (based.populatePages hmarked) hcfg
    (by rw [hw, State.setSeg_seq, hu])
  have registered : segmentRegister i s =
      (loadPages (halfCount s.cfg (s.seg i)) (firstPage s.cfg (s.seg i)) w).bind fun _ x =>
        .ok () (x.setSeg i { x.seg i with valid := true }) := by
    rw [State.regionSize_of_pag hp] at hsize halloc
    unfold segmentRegister
    dsimp only
    rw [(allocateChecked_eq_ok _ _ _ _).2 ⟨hsize, halloc⟩, Res.bind_ok, State.setSeg_cfg,
      hplaced.cfg, hmarked, Res.bind_ok, hcfg]
  rw [registered, ← hclock]
  refine (loadPages_stamps work (halfCount s.cfg (s.seg i)) (firstPage s.cfg (s.seg i))
    (by rw [hcfg]; omega) fun v hlow hhigh => populated v hlow (by omega)).bind (n := 0)
    fun _ x hx => ?_
  obtain ⟨hpaged, hwork⟩ := hx
  have hst : x.st = (u.setSeg i { u.seg i with base := toReg32 a }).st := by rw [hpaged.st, hw]
  have hbase : (x.seg i).base = toReg32 a := by
    rw [State.seg, hst]
    exact congrArg Descriptor.base (State.setSeg_seg_same u i _)
  have valid := ((hplaced.setSeg_base (toReg32 a)).of_st (by rw [hpaged.cfg, hw])
    (by rw [hpaged.mode, hw]) hst).setSeg_valid hwork.sound hi hpop hlimit
    fun _ v hlow hhigh => by rw [hpaged.populated]; exact populated v hlow hhigh
  rw [← hbase] at valid
  exact .ok rfl ⟨hwork.of_sound valid rfl rfl, by simp⟩

end

end Sys2Proof.Machine

namespace Sys2Proof.Machine

section
variable {s t u : State}

/-! ## The segment phase of a READ (R125 to R127) -/

theorem stampSegment_working (h : s.Working) {i : Nat} (hi : i < s.cfg.numSegments)
    (hv : (s.seg i).valid = true) : (stampSegment i s).Stamps s.clock 1
      fun _ t => t.Working ∧ (t.seg i).valid = true := by
  refine (stampSegment_stamps i s).mono fun _ t ht => ?_
  obtain ⟨hle, rfl⟩ := ht
  have ticked := h.sound.with_clock hle
  refine ⟨h.of_sound (ticked.setSeg hi (h.sound.disk i hi) (h.sound.fields.1 i hi).1
    (BitVec.le_refl _) (fun hv => ?_) fun hp hv hl => h.sound.pop hp i hi hv hl) rfl rfl, by simpa⟩
  exact ⟨(h.sound.seg i hi hv).1, fun j hj hne => (h.sound.seg i hi hv).2 j hj hne.symm⟩

/-- The stamps of a segment phase: the descriptor's own, and in paged mode one for each page of a registration (R131). -/
def segmentStamps (s : State) (sel : Nat) : Nat :=
  (if (s.seg sel).valid then 0 else if s.mode.pag then halfCount s.cfg (s.seg sel) else 0) + 1

/-- A segment fault on a registered segment that fits the memory makes it valid (R126, R167, R168). -/
theorem segmentFault_stamps (h : s.Working) {sel : Nat} (hi : sel < s.cfg.numSegments)
    (hpop : (s.seg sel).populated = true) (hlimit : (s.seg sel).limit ≠ 0)
    (hvalid : (s.seg sel).valid = false) (hsize : s.regionSize (s.seg sel) ≤ s.cfg.memSize) :
    (segmentFault sel s).Stamps s.clock
      (if s.mode.pag then halfCount s.cfg (s.seg sel) else 0)
      fun _ t => t.Working ∧ (t.seg sel).valid = true := by
  unfold segmentFault
  split
  next hp => exact segmentRegister_stamps h hp hi hpop hlimit hvalid hsize
  next hp => exact segmentLoad_stamps h (by simpa using hp) hi hpop hlimit hvalid hsize

theorem segmentPhase_stamps (h : s.Working) {sel : Nat} (hi : sel < s.cfg.numSegments)
    (hpop : (s.seg sel).populated = true) (hlimit : (s.seg sel).limit ≠ 0)
    (hroom : (s.seg sel).valid = true ∨ s.regionSize (s.seg sel) ≤ s.cfg.memSize) :
    (segmentPhase sel s).Stamps s.clock (segmentStamps s sel)
      fun _ t => t.Working ∧ (t.seg sel).valid = true ∧ s.KeepsRegistrations sel t := by
  have kept (_ : Unit) (t : State) (ht : segmentPhase sel s = .ok () t) :
      s.KeepsRegistrations sel t := by
    have := segmentPhase_ends (registrations_keptByRead sel) s
    rwa [ht] at this
  suffices (segmentPhase sel s).Stamps s.clock (segmentStamps s sel)
      fun _ t => t.Working ∧ (t.seg sel).valid = true from
    (this.and_ok kept).mono fun _ t ht => and_assoc.1 ht
  unfold segmentPhase segmentStamps
  by_cases hv : (s.seg sel).valid = true
  · rw [if_pos hv, if_pos hv, Nat.zero_add]
    exact stampSegment_working h hi hv
  · rw [if_neg hv, if_neg hv]
    simp only [hv, Bool.false_eq_true, false_or] at hroom
    refine (segmentFault_stamps (h.enter .segmentFault) hi hpop hlimit (by simpa using hv)
      hroom).bind fun _ u hu => ?_
    obtain ⟨hwork, hvalid⟩ := hu
    refine stampSegment_working hwork (hwork.sound.lt_of_valid hvalid) hvalid

/-! ## The access of a READ (R128 to R130) -/

theorem readSegment_stamps (h : s.Working) {sel : Nat} {off len : Word32}
    (hp : s.mode.pag = false) (hv : (s.seg sel).valid = true)
    (hin : off.toNat + len.toNat ≤ (s.seg sel).limit.toNat) :
    (readSegment sel off len s).Stamps s.clock 0 fun _ t => t.Working := by
  have inside := (h.sound.seg sel (h.sound.lt_of_valid hv) hv).1
  rw [State.regionSize_of_not_pag hp] at inside
  have accessed := ((h.linear ((s.seg sel).base.toNat + off.toNat) len).physical
    ((s.seg sel).base.toNat + off.toNat)).enter .access
  have read := (memRead_eq_ok ((s.seg sel).base.toNat + off.toNat) len.toNat
    (((s.linear ((s.seg sel).base.toNat + off.toNat) len).physical
      ((s.seg sel).base.toNat + off.toNat)).enter .access) _ _).2 ⟨?_, rfl, rfl⟩
  · unfold readSegment
    dsimp only
    rw [read, Res.bind_ok]
    exact .ok (by simp) (accessed.setResult _)
  · change (s.seg sel).base.toNat + off.toNat + len.toNat ≤ s.cfg.memSize
    omega

theorem readPaged_stamps (h : s.Working) {sel : Nat} {off len : Word32} (hp : s.mode.pag = true)
    (hv : (s.seg sel).valid = true) (hin : off.toNat + len.toNat ≤ (s.seg sel).limit.toNat)
    (hlimit : (s.seg sel).limit ≠ 0) :
    (readPaged sel off len s).Stamps s.clock
      (chunkCount s.cfg ((s.seg sel).diskBase.toNat + off.toNat) len.toNat)
      fun _ t => t.Working := by
  have hi := h.sound.lt_of_valid hv
  have hdisk := h.sound.disk sel hi ((h.sound.fields.1 sel hi).1 hv)
  have populated (a : Nat) (hlow : (s.seg sel).diskBase.toNat + off.toNat ≤ a)
      (hhigh : a < (s.seg sel).diskBase.toNat + off.toNat + len.toNat) :
      (s.page (a / s.cfg.pageSize)).populated = true :=
    h.sound.pop hp sel hi hv hlimit _ (Config.page_lt h.sound.params (by omega))
      (Nat.div_le_div_right (by omega)) (Nat.div_le_div_right (by omega))
  have started := (h.linear ((s.seg sel).diskBase.toNat + off.toNat) len).setResult []
  exact readChunks_stamps started (le_refl _)
    (show (s.seg sel).diskBase.toNat + off.toNat + len.toNat ≤ s.cfg.diskSize by omega) populated

/-! ## READ -/

/-- The checks of SEGMENT_LOOKUP pass, or raise an error other than InternalConsistency; nothing changes (R124). -/
theorem segmentChecks_eq (la : LogicalAddr) (len : Word32) (s : State) :
    readable la len s ∧ segmentChecks (selOf la).toNat (offOf la) len s = .ok () s ∨
      ¬ readable la len s ∧ ∃ k, k ≠ .ok ∧ k ≠ .internalConsistency ∧
        segmentChecks (selOf la).toNat (offOf la) len s = .raised k s := by
  by_cases hread : readable la len s
  · obtain ⟨hlt, hpop, hoff, hlen⟩ := hread
    exact .inl ⟨⟨hlt, hpop, hoff, hlen⟩,
      (segmentChecks_eq_ok _ _ _ _ _).2 ⟨hlt, hpop, hoff, hlen, rfl⟩⟩
  have notOk : segmentChecks (selOf la).toNat (offOf la) len s ≠ .ok () s := fun hok => by
    obtain ⟨hlt, hpop, hoff, hlen, -⟩ := (segmentChecks_eq_ok _ _ _ _ _).1 hok
    exact hread ⟨hlt, hpop, hoff, hlen⟩
  refine .inr ⟨hread, ?_⟩
  unfold segmentChecks at notOk ⊢
  split_ifs at notOk ⊢
  · exact ⟨.segmentFault, nofun, nofun, rfl⟩
  · exact ⟨.segmentFault, nofun, nofun, rfl⟩
  · exact ⟨.invalidAddress, nofun, nofun, rfl⟩
  · exact ⟨.crossSegmentRead, nofun, nofun, rfl⟩
  · exact absurd rfl notOk

/-- A segment fault on a region larger than the memory is refused before anything changes (R166). -/
theorem segmentFault_outOfMemory {sel : Nat} (hsize : s.cfg.memSize < s.regionSize (s.seg sel)) :
    segmentFault sel s = .raised .outOfMemory s := by
  unfold segmentFault
  split
  next hp =>
    rw [State.regionSize_of_pag hp] at hsize
    rw [segmentRegister, allocateChecked, if_pos hsize]
    rfl
  next hp =>
    rw [State.regionSize_of_not_pag (by simpa using hp)] at hsize
    rw [segmentLoad, allocateChecked, if_pos hsize]
    rfl

theorem segmentPhase_outOfMemory {sel : Nat} (hv : (s.seg sel).valid = false)
    (hsize : s.cfg.memSize < s.regionSize (s.seg sel)) :
    segmentPhase sel s = .raised .outOfMemory (s.enter .segmentFault) := by
  rw [segmentPhase, if_neg (by simp [hv]),
    segmentFault_outOfMemory (s := s.enter .segmentFault) hsize, Res.bind_raised]

/-- The work of command `i` begun in state `s`, where it ends: it raises an error of its checks with nothing changed and no stamp; it completes, CLOCK having room for its stamps; it is refused, CLOCK having none; or it stops, being ill-formed (R31, R98, R247). -/
inductive Res.Settles (i : Instr) (s : State) : Res Unit → Prop
  | raised {k : Status} {t : State} (hok : k ≠ .ok) (hk : k ≠ .internalConsistency)
    (ht : t = { s with seq := t.seq }) (hwork : t.Working) (hstamps : commandStamps i s = 0) :
    Res.Settles i s (.raised k t)
  | ok {t : State} (hroom : s.clock.toNat + commandStamps i s < 2 ^ 64) (hwork : t.Working)
    (hfatal : t.fatal = s.fatal) : Res.Settles i s (.ok () t)
  | exhausted (hfull : 2 ^ 64 ≤ s.clock.toNat + commandStamps i s) : Res.Settles i s .exhausted
  | stop {f : Fault} (hill : i.wellFormed = false) : Res.Settles i s (.stop f)

/-- The stamps of a command do not depend on the sequencer's registers. -/
theorem commandStamps_of_seq (i : Instr) (h : t = { s with seq := t.seq }) :
    commandStamps i t = commandStamps i s := by
  rw [h]
  cases i <;> rfl

theorem Res.Settles.of_seq {i : Instr} {r : Res Unit} (h : r.Settles i t)
    (ht : t = { s with seq := t.seq }) : r.Settles i s := by
  have stamps := commandStamps_of_seq i ht
  have clock : t.clock = s.clock := by rw [ht]
  have fatal : t.fatal = s.fatal := by rw [ht]
  cases h with
  | raised hok hk hu hwork hstamps =>
    exact .raised hok hk (by rw [hu, ht]) hwork (stamps ▸ hstamps)
  | ok hroom hwork hfatal => exact .ok (by rwa [clock, stamps] at hroom) hwork (hfatal.trans fatal)
  | exhausted hfull => exact .exhausted (by rwa [clock, stamps] at hfull)
  | stop hill => exact .stop hill

/-- Work that makes a command's stamps settles it. -/
theorem Res.Stamps.settles {i : Instr} {n : Nat} {r : Res Unit}
    (h : r.Stamps s.clock n fun _ t => t.Working ∧ t.fatal = s.fatal)
    (hn : commandStamps i s = n) : r.Settles i s := by
  by_cases hroom : s.clock.toNat + n < 2 ^ 64
  · obtain ⟨⟨⟩, t, rfl, -, hwork, hfatal⟩ := h.1 hroom
    exact .ok (hn ▸ hroom) hwork hfatal
  · rw [h.2 (by omega)]
    exact .exhausted (by omega)

/-- A READ that is not translated, not readable, or too large for the memory makes no stamp (R127, R131). -/
theorem commandStamps_read_of_not {la : LogicalAddr} {len : Word32}
    (h : ¬ (s.mode.seg = true ∧ readable la len s ∧ ((s.seg (selOf la).toNat).valid = true ∨
      s.regionSize (s.seg (selOf la).toNat) ≤ s.cfg.memSize))) :
    commandStamps (.read la len) s = 0 := if_neg h

/-- The stamps of a READ that passes its checks and the capacity test are those of its segment phase and of its chunks (R131). -/
theorem commandStamps_read {la : LogicalAddr} {len : Word32} (hseg : s.mode.seg = true)
    (hread : readable la len s) (hroom : (s.seg (selOf la).toNat).valid = true ∨
      s.regionSize (s.seg (selOf la).toNat) ≤ s.cfg.memSize) :
    commandStamps (.read la len) s = segmentStamps s (selOf la).toNat +
      if s.mode.pag then chunkCount s.cfg (readLin s la 0) len.toNat else 0 := by
  have counted : s.mode.seg = true ∧ readable la len s ∧ ((s.seg (selOf la).toNat).valid = true ∨
      s.regionSize (s.seg (selOf la).toNat) ≤ s.cfg.memSize) := ⟨hseg, hread, hroom⟩
  simp only [commandStamps, if_pos counted, segmentStamps, pagedStamps]
  cases s.mode.pag <;> simp

/-- A translated READ that passes its checks and the capacity test makes its stamps and completes (R124 to R131). -/
theorem readTranslated_stamps (h : s.Working) {la : LogicalAddr} {len : Word32}
    (hseg : s.mode.seg = true) (hread : readable la len s)
    (hroom : (s.seg (selOf la).toNat).valid = true ∨
      s.regionSize (s.seg (selOf la).toNat) ≤ s.cfg.memSize) :
    (readTranslated (selOf la).toNat (offOf la) len s).Stamps s.clock
      (commandStamps (.read la len) s) fun _ t => t.Working := by
  obtain ⟨hlt, hpop, hoff, hlen⟩ := hread
  have hlimit : (s.seg (selOf la).toNat).limit ≠ 0 := by
    intro h0
    simp [h0] at hoff
  rw [commandStamps_read hseg ⟨hlt, hpop, hoff, hlen⟩ hroom]
  unfold readTranslated
  rw [(segmentChecks_eq_ok _ _ _ (s.enter .segmentLookup) _).2 ⟨hlt, hpop, hoff, hlen, rfl⟩,
    Res.bind_ok]
  refine (segmentPhase_stamps (h.enter .segmentLookup) hlt hpop hlimit hroom).bind fun _ u hu => ?_
  obtain ⟨hwork, hvalid, hkeeps⟩ := hu
  obtain ⟨-, hdisk, hlim⟩ := hkeeps.seg (selOf la).toNat
  have hmode : u.mode = s.mode := hkeeps.mode
  have hcfg : u.cfg = s.cfg := hkeeps.cfg
  rw [State.enter_seg] at hdisk hlim
  rw [← hlim] at hlen hlimit
  rw [hmode]
  split
  next hp =>
    have paged := readPaged_stamps (off := offOf la) (len := len) hwork (hmode ▸ hp) hvalid hlen
      hlimit
    rw [hcfg, hdisk] at paged
    exact paged
  next hp => exact readSegment_stamps hwork (by rw [hmode]; simpa using hp) hvalid hlen

theorem readReal_settles (h : s.Working) {la : LogicalAddr} {len : Word32}
    (hseg : s.mode.seg = false) :
    (readReal (offOf la) len s).Settles (.read la len) s := by
  have none : commandStamps (.read la len) s = 0 := commandStamps_read_of_not (by simp [hseg])
  have room : s.clock.toNat + commandStamps (.read la len) s < 2 ^ 64 := by
    rw [none]; exact s.clock.isLt
  have accessed := ((h.linear (offOf la).toNat len).physical (offOf la).toNat).enter .access
  unfold readReal
  split
  · exact .raised nofun nofun rfl h none
  next hin =>
    dsimp only
    split
    · exact .ok room (accessed.setResult []) (by simp)
    · have read := (diskRead_eq_ok (offOf la).toNat len.toNat
        (((s.linear (offOf la).toNat len).physical (offOf la).toNat).enter .access) _ _).2
        ⟨not_lt.1 hin, rfl, rfl⟩
      rw [read, Res.bind_ok]
      exact .ok room ((accessed.emit _).setResult _) (by simp)

theorem readTranslated_settles (h : s.Working) {la : LogicalAddr} {len : Word32}
    (hseg : s.mode.seg = true) :
    (readTranslated (selOf la).toNat (offOf la) len s).Settles (.read la len) s := by
  obtain ⟨hread, -⟩ | ⟨hnot, k, hok, hk, hraised⟩ :=
    segmentChecks_eq la len (s.enter .segmentLookup)
  · by_cases hroom : (s.seg (selOf la).toNat).valid = true ∨
        s.regionSize (s.seg (selOf la).toNat) ≤ s.cfg.memSize
    · refine ((readTranslated_stamps h hseg hread hroom).and_ok (R := fun t => t.fatal = s.fatal)
        fun _ t ht => ?_).settles rfl
      have := readTranslated_ends (fatal_keptByRead (selOf la).toNat) (offOf la) len s
      rw [ht] at this
      exact this.2
    · obtain ⟨hlt, hpop, hoff, hlen⟩ := hread
      simp only [not_or, Bool.not_eq_true, not_le] at hroom
      unfold readTranslated
      rw [(segmentChecks_eq_ok _ _ _ (s.enter .segmentLookup) _).2 ⟨hlt, hpop, hoff, hlen, rfl⟩,
        Res.bind_ok, segmentPhase_outOfMemory (s := s.enter .segmentLookup) hroom.1 hroom.2]
      exact .raised nofun nofun rfl ⟨{ h.sound with }, h.registers⟩
        (commandStamps_read_of_not (by simp [hroom.1, hroom.2]))
  · unfold readTranslated
    rw [hraised]
    exact .raised hok hk rfl (h.enter _)
      (commandStamps_read_of_not fun hcond => hnot hcond.2.1)

theorem readWork_settles (h : s.Working) (la : LogicalAddr) (len : Word32) :
    (readWork la len s).Settles (.read la len) s := by
  have latched : (s.latchSelector la).Working := h.of_seq rfl ⟨rfl, rfl, rfl⟩
  refine Res.Settles.of_seq (t := s.latchSelector la) ?_ rfl
  unfold readWork
  dsimp only
  split
  next hseg => exact readTranslated_settles latched hseg
  next hseg => exact readReal_settles latched (by simpa using hseg)

end

end Sys2Proof.Machine

namespace Sys2Proof.Machine

section
variable {s t u : State}

/-! ## The other commands (R211 to R233) -/

/-- The work of a command that makes no stamp and completes. -/
theorem Res.Settles.ok_of_no_stamps {i : Instr} (hi : commandStamps i s = 0) (hwork : t.Working)
    (hfatal : t.fatal = s.fatal) : (Res.ok () t).Settles i s :=
  .ok (by rw [hi]; exact s.clock.isLt) hwork hfatal

/-- WRITE stops only where its payload is longer than LEN says (R98, R211). -/
theorem writeWork_settles (h : s.Working) (pa len : Word32) (data : List Byte) :
    (writeWork pa len data s).Settles (.write pa len data) s := by
  unfold writeWork
  split
  · exact .raised nofun nofun rfl h rfl
  next hin =>
    have entered := h.enter .access
    by_cases hfit : pa.toNat + data.length ≤ (s.enter .access).cfg.memSize
    · obtain ⟨t, ht, hframe⟩ := memWrite_completes hfit
      rw [ht]
      exact .ok_of_no_stamps rfl
        (entered.of_sound (entered.sound.memWrite ht) (by rw [hframe]) (by rw [hframe]))
        (memWrite_fatal ht :)
    · rw [memWrite, if_pos (not_le.1 hfit)]
      refine .stop ?_
      have : data.length ≠ len.toNat := by
        rw [State.enter_cfg] at hfit
        omega
      simpa [Instr.wellFormed] using this

/-- REGSEG's checks pass exactly for a descriptor that is legal where it is to stand (R215). -/
theorem regsegChecks_eq_ok {index : Nat} {d : Descriptor} : regsegChecks index d s = .ok () s ↔
    index < s.cfg.numSegments ∧ d.diskBase.toNat + d.limit.toNat ≤ s.cfg.diskSize ∧
      (d.valid = true → d.base.toNat + s.regionSize d ≤ s.cfg.memSize ∧
        meetsOther index d.base.toNat (s.regionSize d) s = false) := by
  unfold regsegChecks
  constructor
  · intro h
    split_ifs at h with hindex hdisk hmem hmeets
    refine ⟨not_le.1 hindex, not_lt.1 hdisk, fun hv => ⟨?_, ?_⟩⟩
    · exact not_lt.1 fun hlt => hmem ⟨hv, hlt⟩
    · simpa using fun hm => hmeets ⟨hv, hm⟩
  · rintro ⟨hindex, hdisk, hregion⟩
    rw [if_neg (not_le.2 hindex), if_neg (not_lt.2 hdisk),
      if_neg fun ⟨hv, hlt⟩ => not_lt.2 (hregion hv).1 hlt,
      if_neg fun ⟨hv, hmeets⟩ => by simp [(hregion hv).2] at hmeets]

/-- A region that meets no other valid region shares no byte with one (R215). -/
theorem State.Sound.apart_of_not_meetsOther (h : s.Sound) {index b r : Nat}
    (hmeets : meetsOther index b r s = false) {j : Nat} (hne : j ≠ index)
    (hv : (s.seg j).valid = true) :
    apart b r (s.seg j).base.toNat (s.regionSize (s.seg j)) := by
  intro hpos hpos'
  have alone := (List.any_eq_false.1 hmeets) (j, s.seg j) ((h.mem_validEntries j _).2 ⟨rfl, hv⟩)
  simp only [regionsMeet, Bool.and_eq_true, bne_iff_ne, decide_eq_true_eq, not_and] at alone
  have := alone hne
  omega

/-- Marking pages populated and writing a descriptor are about different tables. -/
theorem populatePages_setSeg {v n index : Nat} {d : Descriptor}
    (h : populatePages v n s = .ok () t) :
    populatePages v n (s.setSeg index d) = .ok () (t.setSeg index d) := by
  obtain ⟨hin, ht, hpt⟩ := (populatePages_eq_ok _ _ _ _).1 h
  refine (populatePages_eq_ok _ _ _ _).2 ⟨hin, ?_, hpt⟩
  rw [ht]
  rfl

/-- A descriptor that passes REGSEG's checks may stand where it is written (R214, R215). -/
theorem State.Sound.setSeg_registered (h : s.Sound) {index : Nat} {d : Descriptor}
    (hchecks : regsegChecks index d s = .ok () s) (hpop : d.populated = true)
    (hts : d.ts ≤ s.clock) (hpages : s.mode.pag = true → d.valid = true → d.limit ≠ 0 →
      ∀ v, firstPage s.cfg d ≤ v → v ≤ lastPage s.cfg d → (s.page v).populated = true) :
    (s.setSeg index d).Sound := by
  obtain ⟨hindex, hdisk, hregion⟩ := regsegChecks_eq_ok.1 hchecks
  exact h.setSeg hindex (fun _ => hdisk) (fun _ => hpop) hts
    (fun hv => ⟨(hregion hv).1,
      fun j _ hne hvj => h.apart_of_not_meetsOther (hregion hv).2 hne hvj⟩)
    fun hp hv hl v _ => hpages hp hv hl v

/-- REGSEG's checks do not look at the page table. -/
theorem regsegChecks_of_pt {index : Nat} {d : Descriptor} (ht : t = { s with pt := t.pt })
    (h : regsegChecks index d s = .ok () s) : regsegChecks index d t = .ok () t := by
  have legal := regsegChecks_eq_ok.1 h
  rw [regsegChecks_eq_ok, ht]
  exact legal

/-- After its checks REGSEG writes the descriptor and, in paged mode, marks its pages populated (R214, R216). -/
theorem regsegPopulate_completes (h : s.Working) {index : Nat} {d : Descriptor}
    (hchecks : regsegChecks index d s = .ok () s) (hpop : d.populated = true)
    (hts : d.ts ≤ s.clock) : ∃ t, regsegPopulate d (s.setSeg index d) = .ok () t ∧ t.Working ∧
      t.fatal = s.fatal := by
  have sound := h.sound
  unfold regsegPopulate
  split
  next hpopulates =>
    obtain ⟨-, -, hlimit⟩ := hpopulates
    obtain ⟨-, hdisk, -⟩ := regsegChecks_eq_ok.1 hchecks
    have lastIn := lastPage_lt sound.params hlimit hdisk
    have pages := firstPage_add_pageCount (c := s.cfg) hlimit
    obtain ⟨p, hp, hps⟩ := populatePages_completes (s := s) (v := firstPage s.cfg d)
      (n := pageCount s.cfg d) (by omega)
    have hcfg : p.cfg = s.cfg := by rw [hps]
    refine ⟨p.setSeg index d, populatePages_setSeg hp, h.of_sound ?_ hcfg (by rw [hps]; rfl),
      by rw [hps]; rfl⟩
    refine (sound.populatePages hp).setSeg_registered (regsegChecks_of_pt hps hchecks) hpop
      (by rw [hps]; exact hts) fun _ _ _ v hlow hhigh => ?_
    rw [hcfg] at hlow hhigh
    rw [populatePages_page _ _ _ _ hp, if_pos ⟨hlow, by omega⟩]
  next hnot =>
    exact ⟨_, rfl, h.of_sound (sound.setSeg_registered hchecks hpop hts
      fun hp hv hl => absurd ⟨hv, hp, hl⟩ hnot) rfl rfl, rfl⟩

theorem regsegWork_settles (h : s.Working) (index : BitVec 13) (base diskBase : Word32)
    (limit : BitVec 31) (valid : Bool) :
    (regsegWork index.toNat ⟨true, base, diskBase, limit, valid, 0⟩ s).Settles
      (.regseg index base diskBase limit valid) s := by
  unfold regsegWork
  obtain hchecks | ⟨k, hok, hk, hchecks⟩ :=
    regsegChecks_eq index.toNat ⟨true, base, diskBase, limit, valid, 0⟩ s
  · obtain ⟨t, ht, hwork, hfatal⟩ := regsegPopulate_completes h hchecks rfl
      (BitVec.le_def.2 (Nat.zero_le _))
    rw [hchecks, Res.bind_ok, ht]
    exact .ok_of_no_stamps rfl hwork hfatal
  · rw [hchecks]
    exact .raised hok hk rfl h rfl

theorem invsegWork_settles (h : s.Working) (index : BitVec 13) :
    (invsegWork index.toNat s).Settles (.invseg index) s := by
  unfold invsegWork
  split
  · exact .raised nofun nofun rfl h rfl
  next hfound =>
    obtain ⟨hlt, -⟩ := not_or.1 hfound
    have evicted : s.Rearranged (invalidate index.toNat s) := .invalidate (not_le.1 hlt)
    exact .ok_of_no_stamps rfl
      (h.of_sound (evicted.sound h.sound (invalidate_iSeg _ h.sound.seg)) rfl rfl) rfl

theorem invpageWork_settles (h : s.Working) (vpn : Word32) :
    (invpageWork vpn.toNat s).Settles (.invpage vpn) s := by
  unfold invpageWork
  split_ifs with hlt hres
  · exact .raised nofun nofun rfl h rfl
  · exact .ok_of_no_stamps rfl
      (h.of_sound (h.sound.release (not_le.1 hlt) hres rfl) rfl rfl) rfl
  · exact .ok_of_no_stamps rfl h rfl

theorem clearWork_settles (h : s.Working) (hf : s.fatal = false) :
    (clearWork s).Settles .clear s := by
  have sound : ({ s with st := [], pt := [], rpt := [], clock := 0 }).Sound := {
    params := h.sound.params
    canonical := ⟨by simp [Sparse.wf], by simp [Sparse.wf], by simp [Sparse.wf],
      h.sound.canonical.2.2.2⟩
    mode := h.sound.mode
    seg := nofun
    page := ⟨nofun, nofun⟩
    disk := nofun
    pop := nofun
    fields := ⟨fun _ _ => ⟨nofun, BitVec.le_refl 0⟩, fun _ _ => Config.numFrames_pos h.sound.params,
      fun _ _ => ⟨Config.numVPages_pos h.sound.params, BitVec.le_refl 0⟩⟩
    fatal := by simp [State.fatalOnlyNearEnd, hf] }
  exact .ok_of_no_stamps rfl (h.of_sound sound rfl rfl) rfl

/-- TablesClear leaves no descriptor valid (R33, R230). -/
theorem State.Sound.valid_of_tablesClear (h : s.Sound) (hclear : tablesClear s = true) (i : Nat) :
    (s.seg i).valid = false := by
  by_contra hv
  simp only [Bool.not_eq_false] at hv
  have listed := List.mem_of_mem_filter ((h.mem_validEntries i _).2 ⟨rfl, hv⟩)
  have populated := (h.fields.1 i (h.lt_of_valid hv)).1 hv
  simp only [tablesClear, Bool.and_eq_true, List.all_eq_true, and_assoc] at hclear
  simpa [populated] using hclear.1 _ listed

/-- A legal mode keeps a state sound where PAG does not change or no descriptor is valid (R29, R230). -/
theorem State.Sound.with_mode (h : s.Sound) {m : Mode} (hlegal : m.legal)
    (hpag : m.pag = s.mode.pag ∨ ∀ i, (s.seg i).valid = false) : ({ s with mode := m }).Sound := by
  refine { h with mode := hlegal, seg := fun i hi hv => ?_, pop := fun hp i hi hv => ?_ }
  · rcases hpag with hpag | hnone
    · have size (d : Descriptor) : State.regionSize { s with mode := m } d = s.regionSize d := by
        rw [State.regionSize, State.regionSize, hpag]
      simp only [size]
      exact h.seg i hi hv
    · exact absurd hv (Bool.eq_false_iff.1 (hnone i))
  · rcases hpag with hpag | hnone
    · exact h.pop (hpag ▸ hp) i hi hv
    · exact absurd hv (Bool.eq_false_iff.1 (hnone i))

theorem setmodeWork_settles (h : s.Working) (seg pag : Bool) :
    (setmodeWork seg pag s).Settles (.setmode seg pag) s := by
  unfold setmodeWork
  split_ifs with hillegal hchange
  · exact .raised nofun nofun rfl h rfl
  · exact .raised nofun nofun rfl h rfl
  · refine .ok_of_no_stamps rfl (h.of_sound (h.sound.with_mode (fun hp => ?_) ?_) rfl rfl) rfl
    · simpa [show pag = true from hp] using hillegal
    · by_cases hpag : pag = s.mode.pag
      · exact .inl hpag
      · exact .inr (h.sound.valid_of_tablesClear (by simpa [hpag] using hchange))

/-- Every command's work settles it (R31, R169, R176, R203, R247). -/
theorem work_settles (h : s.Working) (hf : s.fatal = false) (i : Instr) :
    (i.work s).Settles i s := by
  cases i with
  | read la len => exact readWork_settles h la len
  | write pa len data => exact writeWork_settles h pa len data
  | regseg index base diskBase limit valid =>
    exact regsegWork_settles h index base diskBase limit valid
  | invseg index => exact invsegWork_settles h index
  | invpage vpn => exact invpageWork_settles h vpn
  | clear => exact clearWork_settles h hf
  | setmode seg pag => exact setmodeWork_settles h seg pag

end

end Sys2Proof.Machine

namespace Sys2Proof.Machine

section
variable {s t : State}

/-! ## What a command answers under the invariant -/

theorem State.Inv.working (h : s.Inv) : s.Working := ⟨h.sound, h.registers⟩

theorem State.Working.respond_inv (h : s.Working) (k : Status) : (s.respond k).Inv := by
  have answered : (s.respond k).Working := h.of_seq rfl ⟨rfl, rfl, rfl⟩
  exact ⟨answered.sound, rfl, answered.registers⟩

theorem State.Working.entry (h : s.Working) (i : Instr) : (i.entry s).Working :=
  h.of_seq (i.entry_eq s) (by cases i <;> exact ⟨rfl, rfl, rfl⟩)

/-- What the port presents is no part of the invariant. -/
theorem State.Inv.with_input (h : s.Inv) (items : List Input) : ({ s with input := items }).Inv :=
  ⟨{ h.sound with }, h.idle, h.registers⟩

/-- The first half of a segment whose region fits the memory takes no more pages than there are frames (R168). -/
theorem halfCount_le_numFrames {c : Config} {d : Descriptor}
    (h : halfCount c d * c.pageSize ≤ c.memSize) : halfCount c d ≤ c.numFrames :=
  (Nat.le_div_iff_mul_le c.pageSize_pos).2 h

/-- A READ inside the backing store has no more chunks than there are pages (R131). -/
theorem chunkCount_le_numVPages {c : Config} (hwf : c.wf) {lin len : Nat}
    (h : lin + len ≤ c.diskSize) : chunkCount c lin len ≤ c.numVPages := by
  unfold chunkCount
  split
  · exact Nat.zero_le _
  · have last := Config.page_lt hwf (off := lin + len - 1) (by omega)
    exact le_trans (Nat.succ_le_succ (Nat.sub_le _ _)) last

/-- A command makes at most one stamp for each frame, one for the descriptor and one for each page (R131). -/
theorem State.Sound.commandStamps_le (h : s.Sound) (i : Instr) :
    commandStamps i s ≤ s.cfg.numFrames + 1 + s.cfg.numVPages := by
  cases i with
  | read la len =>
    by_cases hcond : s.mode.seg = true ∧ readable la len s ∧
        ((s.seg (selOf la).toNat).valid = true ∨
          s.regionSize (s.seg (selOf la).toNat) ≤ s.cfg.memSize)
    · obtain ⟨hseg, hread, hroom⟩ := hcond
      rw [commandStamps_read hseg hread hroom]
      obtain ⟨hlt, hpop, -, hlen⟩ := hread
      have hdisk := h.disk _ hlt hpop
      have chunks := chunkCount_le_numVPages h.params (lin := readLin s la 0) (len := len.toNat)
        (by unfold readLin; omega)
      unfold segmentStamps
      split_ifs with hv hp hp
      · omega
      · omega
      · rw [State.regionSize_of_pag hp] at hroom
        have := halfCount_le_numFrames (hroom.resolve_left hv)
        omega
      · omega
    · rw [commandStamps_read_of_not hcond]
      exact Nat.zero_le _
  | write pa len data => exact Nat.zero_le _
  | regseg index base diskBase limit valid => exact Nat.zero_le _
  | invseg index => exact Nat.zero_le _
  | invpage vpn => exact Nat.zero_le _
  | clear => exact Nat.zero_le _
  | setmode seg pag => exact Nat.zero_le _

/-- A refused command leaves a state that satisfies the invariant: CLOCK has no room for one more command (log entry 10). -/
theorem refuseWrap_inv (h : s.Working) (hfull : 2 ^ 64 ≤
    s.clock.toNat + s.cfg.numFrames + 1 + s.cfg.numVPages) : (refuseWrap s).Inv := by
  have marked : ({ s with fatal := true }).Working :=
    ⟨{ h.sound with fatal := fun _ => hfull }, h.registers⟩
  exact marked.respond_inv .internalConsistency

/-- What command `i` answers from state `s`, FATAL clear: an error with nothing changed and no stamp; OK, CLOCK having room for its stamps; a refusal with FATAL set and nothing else changed, CLOCK having none; or, ill-formed, a stop. -/
inductive Answers (i : Instr) (s : State) : Host.Outcome State Fault Refusal → Prop
  | error {t : State} (hinv : t.Inv) (ht : t = { s with seq := t.seq })
    (hok : t.seq.status ≠ .ok) (hk : t.seq.status ≠ .internalConsistency)
    (hstamps : commandStamps i s = 0) : Answers i s (.next t)
  | done {t : State} (hinv : t.Inv) (hroom : s.clock.toNat + commandStamps i s < 2 ^ 64)
    (hok : t.seq.status = .ok) : Answers i s (.next t)
  | refused {t : State} (hinv : t.Inv) (hfull : 2 ^ 64 ≤ s.clock.toNat + commandStamps i s)
    (ht : t = { s with seq := t.seq, fatal := true })
    (hk : t.seq.status = .internalConsistency) : Answers i s (.next t)
  | stop {f : Fault} (hill : i.wellFormed = false) : Answers i s (.fault f)

theorem exec_answers (h : s.Inv) (hf : s.fatal = false) (i : Instr) :
    Answers i s (exec i s) := by
  have hentry := i.entry_eq s
  have entry := h.working.entry i
  have settled := (work_settles entry ((i.entry_fatal s).trans hf) i).of_seq hentry
  rw [exec_of_not_fatal i hf]
  generalize i.work (i.entry s) = r at settled
  cases settled with
  | raised hok hk ht hwork hstamps =>
    exact .error (hwork.respond_inv _) (respond_of_seq ht _) hok hk hstamps
  | ok hroom hwork hfatal => exact .done (hwork.respond_inv _) hroom rfl
  | exhausted hfull =>
    have most := h.sound.commandStamps_le i
    refine .refused (refuseWrap_inv entry ?_) hfull (by rw [hentry]; rfl) rfl
    rw [hentry]
    change 2 ^ 64 ≤ s.clock.toNat + s.cfg.numFrames + 1 + s.cfg.numVPages
    omega
  | stop hill => exact .stop hill

/-- A command that answers is one of three: it errs, it is done, or it is refused. -/
theorem Answers.next_inv {i : Instr} (h : Answers i s (.next t)) : t.Inv := by
  cases h with
  | error hinv => exact hinv
  | done hinv => exact hinv
  | refused hinv => exact hinv

/-! ## Every step keeps the invariant -/

theorem exec_inv {i : Instr} (h : s.Inv) (ht : exec i s = .next t) : t.Inv := by
  by_cases hf : s.fatal = true
  · obtain rfl := Host.Outcome.next.inj ((exec_of_fatal i hf).symm.trans ht)
    exact (h.working.entry i).respond_inv _
  · have answered := exec_answers h (by simpa using hf) i
    rw [ht] at answered
    exact answered.next_inv

theorem execReserved_inv {op : BitVec 4} (h : s.Inv) (ht : execReserved op s = .next t) :
    t.Inv := by
  have accepted : (s.accept op).Working := h.working.of_seq rfl ⟨rfl, rfl, rfl⟩
  cases hf : s.fatal with
  | true =>
    rw [execReserved, runCommand_fatal _ _ _ _ hf] at ht
    obtain rfl := Host.Outcome.next.inj ht
    exact accepted.respond_inv _
  | false =>
    rw [execReserved, runCommand_work _ _ _ _ hf] at ht
    obtain rfl := Host.Outcome.next.inj ht
    exact accepted.respond_inv _

/-- Settles O3: waiting changes nothing, the reset event starts over, and every command, a reserved opcode too, ends in a sound state with its registers inside their widths. -/
theorem stepKeepsInvariant : Obligations.StepKeepsInvariant := by
  intro s t h hstep
  obtain ⟨-, ⟨-, rfl⟩ | ⟨rest, -, rfl⟩ | ⟨-, -, haccept⟩⟩ := (step_eq_next s t).1 hstep
  · exact h
  · exact (State.init_inv h.sound.params).with_input rest
  obtain ⟨i, rest, -, hexec⟩ | ⟨e, -, hreject⟩ := (acceptCommand_eq_next s t).1 haccept
  · exact exec_inv (h.with_input rest) hexec
  obtain ⟨rfl, -⟩ | ⟨op, -, hexec⟩ := (answerReject_eq_next e s t).1 hreject
  · exact h
  · exact execReserved_inv (h.with_input _) hexec

/-! ## Errors, and the end of CLOCK -/

/-- Settles O16: an error of a check changes nothing, and InternalConsistency is a refusal, or the answer under FATAL. -/
theorem errorsChangeNothing : Obligations.ErrorsChangeNothing := by
  intro i s t h ht
  by_cases hf : s.fatal = true
  · obtain ⟨q, hnext, hstatus, -⟩ := exec_of_fatal_endsUnchanged i hf
    obtain rfl := Host.Outcome.next.inj (hnext.symm.trans ht)
    exact ⟨fun _ hk => absurd hstatus hk, fun _ => by rw [← hf]⟩
  have answered := exec_answers h (by simpa using hf) i
  rw [ht] at answered
  cases answered with
  | error _ hsame _ hk => exact ⟨fun _ _ => hsame, fun hk' => absurd hk' hk⟩
  | done _ _ hok => exact ⟨fun hne => absurd hok hne, fun hk => by simp [hok] at hk⟩
  | refused _ _ hset hk => exact ⟨fun _ hne => absurd hk hne, fun _ => hset⟩

/-- Settles O17: only a refusal answers InternalConsistency where FATAL is clear, and a command is refused exactly when CLOCK has no room for its stamps. -/
theorem consistencyErrorMeansClockRanOut : Obligations.ConsistencyErrorMeansClockRanOut := by
  intro i s t h hf ht
  have answered := exec_answers h hf i
  rw [ht] at answered
  cases answered with
  | error _ _ _ hk hstamps =>
    have := s.clock.isLt
    exact iff_of_false hk (by omega)
  | done _ hroom hok => exact iff_of_false (by simp [hok]) (by omega)
  | refused _ hfull _ hk => exact iff_of_true hk hfull

/-- Settles O56: of the answers a command can give, only the refusal has CLOCK without room. -/
theorem commandThatWouldWrapIsRefused : Obligations.CommandThatWouldWrapIsRefused := by
  intro i s h hf hfull
  have hlt := s.clock.isLt
  have answered := exec_answers h hf i
  cases hexec : exec i s with
  | next t =>
    rw [hexec] at answered
    cases answered with
    | error _ _ _ _ hstamps => omega
    | done _ hroom => omega
    | refused hinv _ ht hk => exact ⟨t.seq, congrArg _ ht, hk, hinv.idle⟩
  | fault f =>
    rw [hexec] at answered
    cases answered with
    | stop hill =>
      cases i with
      | write pa len data => exact absurd hfull (by simp only [commandStamps]; omega)
      | _ => nomatch hill
  | refused e =>
    rw [hexec] at answered
    nomatch answered

/-- A step on a command the decoder reads is safe exactly when the command does not answer InternalConsistency. -/
theorem safeStep_iff {i : Instr} {rest : List Input} (h : s.Inv) (hf : s.fatal = false)
    (hdecode : decode s.input = .ok (i, rest)) :
    safeStep s ↔ s.clock.toNat + commandStamps i s < 2 ^ 64 := by
  have hinv := h.with_input rest
  have stamps : commandStamps i { s with input := rest } = commandStamps i s := by cases i <;> rfl
  have answered := exec_answers hinv hf i
  unfold safeStep
  rw [step_of_decode h.idle hdecode]
  cases hexec : exec i { s with input := rest } with
  | next t =>
    have fatal := exec_fatal_iff i (s := { s with input := rest }) hf hexec
    have refused := consistencyErrorMeansClockRanOut i _ t hinv hf hexec
    rw [stamps] at refused
    simp only [Host.Outcome.next.injEq, exists_eq_left', ← Bool.not_eq_true, fatal, refused, not_le]
  | fault f =>
    rw [hexec] at answered
    cases answered with
    | stop hill => simp [decode_wellFormed hdecode] at hill
  | refused e =>
    rw [hexec] at answered
    nomatch answered

/-- Settles O57: a command leaves FATAL set exactly when it is refused, the reset event clears it, and no other step does. -/
theorem safeStepsLeaveFatalClear : Obligations.SafeStepsLeaveFatalClear := by
  refine ⟨fun s i rest h hf hdecode => safeStep_iff h hf hdecode, fun s rest hidle hin => ?_,
    fun s hf hreset hsafe => ?_⟩
  · exact ⟨resetEvent s rest, (step_eq_next s _).2 ⟨hidle, .inr (.inl ⟨rest, hin, rfl⟩)⟩, rfl⟩
  · obtain ⟨t, hstep, hclear⟩ := hsafe
    simp [step_fatal hf hstep hreset] at hclear

end

end Sys2Proof.Machine

/-! PROOFS. What a command answers from, the tables and the memory apart, the places events name, and resident copies that stay equal to the backing store. -/

namespace Sys2Proof

/-- An address of ResidentMemory fits 32 bits (R5). -/
theorem Config.memSize_le {c : Config} (h : c.wf) : c.memSize ≤ 2 ^ 32 := by
  obtain ⟨-, hmem, -⟩ := h
  exact Nat.pow_le_pow_right two_pos hmem

/-- An offset of the backing store fits 32 bits (R5). -/
theorem Config.diskSize_le {c : Config} (h : c.wf) : c.diskSize ≤ 2 ^ 32 := by
  obtain ⟨-, -, -, hdisk, -⟩ := h
  exact Nat.pow_le_pow_right two_pos hdisk

end Sys2Proof

namespace Sys2Proof.Machine

/-! ## What a command answers from -/

section
variable {R : State → State → Prop} {i : Instr} {s t : State}

/-- A command's next state is the one its work ended in, or the one it began in, or, where CLOCK ran out, that with FATAL set, each but for the sequencer's registers (R26, R121, R253, 93 U9). -/
theorem exec_relates (ht : exec i s = .next t) (hseq : ∀ u q, R s u → R s { u with seq := q })
    (hs : R s s) (hfull : i.work (i.entry s) = .exhausted → R s { s with fatal := true })
    (hwork : s.fatal = false → (i.work (i.entry s)).Leads R s) : R s t := by
  have begun : R s (i.entry s) := by rw [i.entry_eq]; exact hseq s _ hs
  have answered (k : Status) (u : State) (h : R s u) : R s (u.respond k) :=
    (hseq u (u.respond k).seq h :)
  by_cases hf : s.fatal = true
  · obtain rfl := Host.Outcome.next.inj ((exec_of_fatal i hf).symm.trans ht)
    exact answered _ _ begun
  have hclear : s.fatal = false := by simpa using hf
  have ended := hwork hclear
  rw [exec_of_not_fatal i hclear] at ht
  rcases (Res.finish_eq_next _ _ t).1 ht with ⟨u, hr, rfl⟩ | ⟨k, u, hr, rfl⟩ | ⟨hr, rfl⟩
  · rw [hr] at ended
    exact answered _ u ended
  · rw [hr] at ended
    exact answered _ u ended
  · refine answered _ _ ?_
    rw [i.entry_eq]
    exact hseq _ _ (hfull hr)

end

/-! ## Tables and memory are apart (R68, R75, R211) -/

/-- A table command's work is related to where it began by what holds across any write of tables, CLOCK and MODE. -/
theorem Res.WritesTables.leads {R : State → State → Prop} {r : Res Unit} {s : State}
    (h : r.WritesTables s) (hR : ∀ t, t = { s with
      mode := t.mode, clock := t.clock, st := t.st, pt := t.pt, rpt := t.rpt } → R s t) :
    r.Leads R s := by
  cases r with
  | ok _ t => exact hR t h
  | raised k t =>
    obtain ⟨rfl, -⟩ := h
    exact hR t rfl
  | exhausted => trivial
  | stop _ => trivial

/-- WRITE's work asks for no stamp (R31, R211). -/
theorem writeWork_ne_exhausted (pa len : Word32) (data : List Byte) (s : State) :
    writeWork pa len data s ≠ .exhausted := by
  unfold writeWork memWrite
  split_ifs <;> exact nofun

/-- State `t` is `s` but for the memory, the trace and the sequencer's registers, and no backing-store read was traced. -/
def State.WrittenTo (s t : State) : Prop :=
  t = { s with seq := t.seq, mem := t.mem, trace := t.trace } ∧
    ∀ off n, .bsRead off n ∈ t.trace → .bsRead off n ∈ s.trace

theorem State.WrittenTo.with_seq {s t : State} (h : s.WrittenTo t) (q : Seq) :
    s.WrittenTo { t with seq := q } := by
  obtain ⟨hframe, htrace⟩ := h
  exact ⟨by rw [hframe], htrace⟩

theorem memWrite_writtenTo {addr : Nat} {v : List Byte} {s t : State}
    (h : memWrite addr v s = .ok () t) : s.WrittenTo t := by
  obtain ⟨-, rfl⟩ := (memWrite_eq_ok _ _ _ _ _).1 h
  split
  · exact ⟨rfl, fun _ _ => id⟩
  · exact ⟨rfl, fun _ _ => by simp⟩

theorem writeWork_leads_writtenTo (pa len : Word32) (data : List Byte) (s : State) (q : Seq) :
    (writeWork pa len data { s with seq := q }).Leads State.WrittenTo s := by
  cases hr : writeWork pa len data { s with seq := q } with
  | ok _ u =>
    obtain ⟨hframe, htrace⟩ := memWrite_writtenTo (writeWork_ok hr)
    exact ⟨hframe, htrace⟩
  | raised k u =>
    rw [(writeWork_raised hr).2]
    exact ⟨rfl, fun _ _ => id⟩
  | exhausted => trivial
  | stop _ => trivial

/-- Settles O53: the table commands' work writes tables, CLOCK and MODE alone, and WRITE's is one MemWrite. -/
theorem tablesAndMemoryAreApart : Obligations.TablesAndMemoryAreApart := by
  refine ⟨fun i s t ht hread hwrite => ?tables, fun pa len data s t ht => ?write⟩
  case tables =>
    obtain ⟨la, len, rfl⟩ | ⟨pa, len, data, rfl⟩ | tables := read_or_write_or_writesTables i
    · exact absurd rfl (hread la len)
    · exact absurd rfl (hwrite pa len data)
    · refine exec_relates (R := fun _ t => t.mem = s.mem ∧ t.trace = s.trace) ht
        (fun _ _ => id) ⟨rfl, rfl⟩ (fun _ => ⟨rfl, rfl⟩) fun _ => ?_
      exact (tables (i.entry s)).leads (R := fun _ t => t.mem = s.mem ∧ t.trace = s.trace)
        fun t ht => by rw [ht, i.entry_eq]; exact ⟨rfl, rfl⟩
  case write =>
    exact exec_relates (R := State.WrittenTo) ht (fun _ q h => h.with_seq q)
      ⟨rfl, fun _ _ => id⟩ (fun hfull => absurd hfull (writeWork_ne_exhausted _ _ _ _))
      fun _ => writeWork_leads_writtenTo pa len data s _

/-! ## The places events name (R66, R68, R111, R139) -/

/-- The range an event names is of one byte or more inside its device. -/
def Event.Inside (c : Config) : Event → Prop
  | .bsRead off n => rangeInside c c.diskSize off n
  | .notice a n => rangeInside c c.memSize a n

/-- A range inside a device of at most 2^32 bytes is carried as it is, but for the length of a page of 2^32 bytes (R111, log entry 12). -/
theorem rangeInside_of_le {c : Config} {size start n : Nat} (hsize : size ≤ 2 ^ 32) (hpos : 1 ≤ n)
    (hn : n < 2 ^ 32 ∨ n = c.pageSize) (hin : start + n ≤ size) :
    rangeInside c size (toReg32 start) (toReg32 n) := by
  have hstart : (toReg32 start).toNat = start := toReg32_of_lt _ (by omega)
  by_cases hfit : n < 2 ^ 32
  · have hlength : (toReg32 n).toNat = n := toReg32_of_lt _ hfit
    exact .inl (by omega)
  · obtain rfl : n = 2 ^ 32 := by omega
    obtain rfl : start = 0 := by omega
    exact .inr ⟨by omega, by omega, rfl, rfl⟩

/-- The parameters of `t` are those of `s`, and the events traced since name places inside their devices. -/
structure State.LogsInside (s t : State) : Prop where
  cfg : t.cfg = s.cfg
  events : s.cfg.wf → ∃ events, t.trace = s.trace ++ events ∧ ∀ e ∈ events, e.Inside s.cfg

section
variable {s t u : State}

theorem State.LogsInside.of_eq (hcfg : t.cfg = s.cfg) (htrace : t.trace = s.trace) :
    s.LogsInside t := ⟨hcfg, fun _ => ⟨[], by simp [htrace], nofun⟩⟩

theorem State.LogsInside.of_event {e : Event} (hcfg : t.cfg = s.cfg)
    (htrace : t.trace = s.trace ++ [e]) (he : s.cfg.wf → e.Inside s.cfg) : s.LogsInside t :=
  ⟨hcfg, fun hwf => ⟨[e], htrace, by simpa using he hwf⟩⟩

theorem State.LogsInside.trans (h : s.LogsInside t) (h' : t.LogsInside u) : s.LogsInside u where
  cfg := h'.cfg.trans h.cfg
  events hwf := by
    obtain ⟨es, htrace, hin⟩ := h.events hwf
    obtain ⟨es', htrace', hin'⟩ := h'.events (h.cfg ▸ hwf)
    rw [h.cfg] at hin'
    exact ⟨es ++ es', by rw [htrace', htrace, List.append_assoc],
      fun e he => (List.mem_append.1 he).elim (hin e) (hin' e)⟩

/-- An update of anything but the parameters and the trace. -/
theorem State.LogsInside.then_eq (h : s.LogsInside t) (hcfg : u.cfg = t.cfg)
    (htrace : u.trace = t.trace) : s.LogsInside u := h.trans (.of_eq hcfg htrace)

/-- Work of which every event names a place inside its device, where it completes and where it raises an error. -/
abbrev Res.Inside {α : Type} (s : State) (r : Res α) : Prop := r.Leads State.LogsInside s

theorem Res.Inside.after {α : Type} {r : Res α} (hst : s.LogsInside t) (hr : r.Inside t) :
    r.Inside s := by
  cases r with
  | ok _ _ => exact hst.trans hr
  | raised _ _ => exact hst.trans hr
  | exhausted => trivial
  | stop _ => trivial

/-- A sequence, the second part of which may use that the first completed. -/
theorem Res.Inside.bind {α β : Type} {r : Res α} {g : α → State → Res β} (hr : r.Inside s)
    (hg : ∀ a u, r = .ok a u → (g a u).Inside u) : (r.bind g).Inside s := by
  cases r with
  | ok a u => exact .after hr (hg a u rfl)
  | raised _ _ => exact hr
  | exhausted => trivial
  | stop _ => trivial

/-! ### Access primitives and stamps -/

theorem memRead_inside (addr n : Nat) (s : State) : (memRead addr n s).Inside s := by
  unfold memRead
  split
  · trivial
  · exact .of_eq rfl rfl

theorem memWrite_inside {addr : Nat} {v : List Byte}
    (hv : v.length < 2 ^ 32 ∨ v.length = s.cfg.pageSize) : (memWrite addr v s).Inside s := by
  unfold memWrite
  split_ifs with hin hempty
  · trivial
  · exact .of_eq rfl rfl
  · refine .of_event rfl rfl fun hwf => ?_
    exact rangeInside_of_le (Config.memSize_le hwf) (List.length_pos_iff.2 hempty) hv
      (not_lt.1 hin)

theorem diskRead_inside {off n : Nat} (hpos : 1 ≤ n) (hn : n < 2 ^ 32 ∨ n = s.cfg.pageSize) :
    (diskRead off n s).Inside s := by
  unfold diskRead
  split_ifs with hin
  · trivial
  · refine .of_event rfl rfl fun hwf => ?_
    exact rangeInside_of_le (Config.diskSize_le hwf) hpos hn (not_lt.1 hin)

/-- A load: `DiskRead`, then `MemWrite` of what it answers (R167, R198). -/
theorem diskRead_memWrite_inside {α : Type} {off n : Nat} {addr : State → Nat}
    {g : State → Res α} (hpos : 1 ≤ n) (hn : n < 2 ^ 32 ∨ n = s.cfg.pageSize)
    (hg : ∀ u, (g u).Inside u) :
    ((diskRead off n s).bind fun bytes u =>
      (memWrite (addr u) bytes u).bind fun _ w => g w).Inside s := by
  refine (diskRead_inside hpos hn).bind fun bytes u hu => ?_
  obtain ⟨-, rfl, rfl⟩ := (diskRead_eq_ok _ _ _ _ _).1 hu
  exact (memWrite_inside (by simpa using hn)).bind fun _ w _ => hg w

theorem stamp_inside (s : State) : (stamp s).Inside s := by
  unfold stamp
  split
  · trivial
  · exact .of_eq rfl rfl

theorem stampSegment_inside (i : Nat) (s : State) : (stampSegment i s).Inside s :=
  (stamp_inside s).bind fun _ _ _ => .of_eq rfl rfl

theorem stampFrame_inside (f : Nat) (s : State) : (stampFrame f s).Inside s :=
  (stamp_inside s).bind fun _ _ _ => .of_eq rfl rfl

/-! ### The segment table -/

theorem slideTo_inside (i cur : Nat) (s : State) : (slideTo i cur s).Inside s := by
  unfold slideTo
  dsimp only
  split
  · exact .of_eq rfl rfl
  split
  next hmoves =>
    refine (memRead_inside _ _ s).bind fun bytes u hu => ?_
    obtain ⟨-, rfl, rfl⟩ := (memRead_eq_ok _ _ _ _ _).1 hu
    refine (memWrite_inside (.inl ?_)).bind fun _ w _ => .of_eq rfl rfl
    have := (u.seg i).limit.isLt
    rw [Memory.length_readRange, State.regionSize_of_not_pag hmoves.1]
    omega
  · exact .of_eq rfl rfl

theorem compactFrom_inside (order : List Nat) (cur : Nat) (s : State) :
    (compactFrom order cur s).Inside s := by
  induction order generalizing cur s with
  | nil => exact .of_eq rfl rfl
  | cons i rest ih => exact (slideTo_inside i cur s).bind fun _ u _ => ih _ u

theorem allocate_inside (size : Nat) (s : State) : (allocate size s).Inside s := by
  unfold allocate
  split
  · exact .of_eq rfl rfl
  refine Res.Inside.after ?evicted ((compactFrom_inside _ _ _).bind fun _ u _ => ?_)
  case evicted =>
    split
    · exact .of_eq rfl rfl
    · rw [evictUntil_frame]; exact .of_eq rfl rfl
  split
  · exact .of_eq rfl rfl
  · trivial

theorem allocateChecked_inside (size : Nat) (s : State) : (allocateChecked size s).Inside s := by
  unfold allocateChecked
  split
  · exact .of_eq rfl rfl
  · exact allocate_inside size s

/-- A segment that holds bytes is loaded with one backing-store read of them (R167). -/
theorem segmentLoad_inside {i : Nat} (hlimit : (s.seg i).limit ≠ 0) :
    (segmentLoad i s).Inside s := by
  unfold segmentLoad
  refine (allocateChecked_inside _ s).bind fun a u _ =>
    diskRead_memWrite_inside (limit_pos hlimit) (.inl ?_) fun w => .of_eq rfl rfl
  have := (s.seg i).limit.isLt
  omega

/-! ### The page table -/

theorem evictPage_inside (f : Nat) (s : State) : (evictPage f s).Inside s := by
  unfold evictPage
  dsimp only
  split
  · exact .of_eq rfl rfl
  · exact .of_eq rfl rfl

theorem chooseFrame_inside (s : State) : (chooseFrame s).Inside s := by
  unfold chooseFrame
  split
  · exact .of_eq rfl rfl
  · exact (evictPage_inside _ s).bind fun _ _ _ => .of_eq rfl rfl

theorem pageLookup_inside (v : Nat) (s : State) : (pageLookup v s).Inside s := by
  unfold pageLookup
  dsimp only
  split_ifs <;> exact .of_eq rfl rfl

theorem pageFault_inside (v : Nat) (s : State) : (pageFault v s).Inside s := by
  unfold pageFault
  exact (chooseFrame_inside s).bind fun f u _ =>
    diskRead_memWrite_inside u.cfg.pageSize_pos (.inr rfl) fun w => .of_eq rfl rfl

theorem ensurePage_inside (visit : Bool) (v : Nat) (s : State) :
    (ensurePage visit v s).Inside s := by
  unfold ensurePage
  refine (pageLookup_inside v s).bind fun found u _ => ?_
  refine Res.Inside.bind ?_ fun f w _ => (stampFrame_inside f w).bind fun _ _ _ => .of_eq rfl rfl
  cases found with
  | some f => exact .of_eq rfl rfl
  | none =>
    refine Res.Inside.after ?_ (pageFault_inside v _)
    split
    · exact .of_eq rfl rfl
    · exact .of_eq rfl rfl

theorem populatePages_inside (v n : Nat) (s : State) : (populatePages v n s).Inside s := by
  unfold populatePages
  split
  · trivial
  · exact .of_eq rfl rfl

theorem loadPages_inside (n v : Nat) (s : State) : (loadPages n v s).Inside s := by
  induction n generalizing v s with
  | zero => exact .of_eq rfl rfl
  | succ n ih => exact (ensurePage_inside false v s).bind fun _ u _ => ih _ u

theorem segmentRegister_inside (i : Nat) (s : State) : (segmentRegister i s).Inside s := by
  unfold segmentRegister
  refine (allocateChecked_inside _ s).bind fun a u _ => ?_
  have based : u.LogsInside (u.setSeg i { u.seg i with base := toReg32 a }) := .of_eq rfl rfl
  refine Res.Inside.after based ((populatePages_inside _ _ _).bind fun _ w _ => ?_)
  exact (loadPages_inside _ _ w).bind fun _ x _ => .of_eq rfl rfl

/-! ### READ -/

/-- The way of an unpaged READ from its checks to ACCESS writes the sequencer's registers alone (R128, R129). -/
theorem State.accessed_eq (s : State) (lin phys : Nat) (len : Word32) :
    ∃ q, ((s.linear lin len).physical phys).enter .access = { s with seq := q } :=
  ⟨(((s.linear lin len).physical phys).enter .access).seq, rfl⟩

theorem readReal_inside (off len : Word32) (s : State) : (readReal off len s).Inside s := by
  obtain ⟨q, haccessed⟩ := s.accessed_eq off.toNat off.toNat len
  have computed : s.LogsInside { s with seq := q } := .of_eq rfl rfl
  unfold readReal
  dsimp only
  rw [haccessed]
  split_ifs with hin hempty
  · exact .of_eq rfl rfl
  · exact .of_eq rfl rfl
  · have hpos : 1 ≤ len.toNat := by bv_omega
    refine Res.Inside.after computed ((diskRead_inside hpos (.inl len.isLt)).bind fun _ _ _ => ?_)
    exact .of_eq rfl rfl

theorem segmentChecks_inside (sel : Nat) (off len : Word32) (s : State) :
    (segmentChecks sel off len s).Inside s := by
  unfold segmentChecks
  split_ifs <;> exact .of_eq rfl rfl

theorem segmentPhase_inside {sel : Nat} (hlimit : (s.seg sel).limit ≠ 0) :
    (segmentPhase sel s).Inside s := by
  unfold segmentPhase segmentFault
  split
  · exact stampSegment_inside sel s
  have entered : s.LogsInside (s.enter .segmentFault) := .of_eq rfl rfl
  refine Res.Inside.after entered (Res.Inside.bind ?_ fun _ u _ => stampSegment_inside sel u)
  split
  · exact segmentRegister_inside sel _
  · exact segmentLoad_inside hlimit

theorem readSegment_inside (sel : Nat) (off len : Word32) (s : State) :
    (readSegment sel off len s).Inside s := by
  obtain ⟨q, haccessed⟩ := s.accessed_eq ((s.seg sel).base.toNat + off.toNat)
    ((s.seg sel).base.toNat + off.toNat) len
  have computed : s.LogsInside { s with seq := q } := .of_eq rfl rfl
  unfold readSegment
  dsimp only
  rw [haccessed]
  exact Res.Inside.after computed ((memRead_inside _ _ _).bind fun _ _ _ => .of_eq rfl rfl)

theorem readChunk_inside (lin n : Nat) (s : State) : (readChunk lin n s).Inside s := by
  rw [readChunk_eq]
  have looked : s.LogsInside (s.lookup lin) := .of_eq rfl rfl
  refine Res.Inside.after looked ((ensurePage_inside true _ _).bind fun f u _ => ?_)
  have accessed : u.LogsInside (u.access f (f * u.cfg.pageSize + poffOf s.cfg lin)) := .of_eq rfl rfl
  exact Res.Inside.after accessed ((memRead_inside _ _ _).bind fun _ _ _ => .of_eq rfl rfl)

theorem readChunks_inside (turns lin remain : Nat) (s : State) :
    (readChunks turns lin remain s).Inside s := by
  induction turns generalizing lin remain s with
  | zero => exact .of_eq rfl rfl
  | succ turns ih =>
    unfold readChunks
    split
    · exact .of_eq rfl rfl
    · refine (readChunk_inside _ _ s).bind fun _ u _ => Res.Inside.after ?_ (ih _ _ _)
      exact .of_eq rfl rfl

/-- The checks of SEGMENT_LOOKUP leave a segment that holds bytes, so a fault reads one or more (R124, R126). -/
theorem readTranslated_inside (sel : Nat) (off len : Word32) (s : State) :
    (readTranslated sel off len s).Inside s := by
  unfold readTranslated
  have entered : s.LogsInside (s.enter .segmentLookup) := .of_eq rfl rfl
  refine Res.Inside.after entered ((segmentChecks_inside sel off len _).bind fun _ u hu => ?_)
  obtain ⟨-, -, hoff, -, rfl⟩ := (segmentChecks_eq_ok _ _ _ _ _).1 hu
  have hlimit : (s.seg sel).limit ≠ 0 := fun h0 => by simp [h0] at hoff
  refine (segmentPhase_inside (s := s.enter .segmentLookup) hlimit).bind fun _ w _ => ?_
  split
  · refine Res.Inside.after ?_ (readChunks_inside _ _ _ _)
    exact .of_eq rfl rfl
  · exact readSegment_inside sel off len w

theorem readWork_inside (la : LogicalAddr) (len : Word32) (s : State) :
    (readWork la len s).Inside s := by
  have latched : s.LogsInside (s.latchSelector la) := .of_eq rfl rfl
  unfold readWork
  dsimp only
  split
  · exact Res.Inside.after latched (readTranslated_inside _ _ _ _)
  · exact Res.Inside.after latched (readReal_inside _ _ _)

/-! ### Whole commands -/

theorem work_inside {i : Instr} (hwf : i.wellFormed = true) (s : State) :
    (i.work s).Inside s := by
  obtain ⟨la, len, rfl⟩ | ⟨pa, len, data, rfl⟩ | tables := read_or_write_or_writesTables i
  · exact readWork_inside la len s
  · have hlen : data.length = len.toNat := by simpa [Instr.wellFormed] using hwf
    have entered : s.LogsInside (s.enter .access) := .of_eq rfl rfl
    show (writeWork pa len data s).Inside s
    unfold writeWork
    split
    · exact .of_eq rfl rfl
    · exact Res.Inside.after entered (memWrite_inside (.inl (by rw [hlen]; exact len.isLt)))
  · exact (tables s).leads fun t ht => by
      rw [ht]
      exact .of_eq rfl rfl

theorem exec_logsInside {i : Instr} (hwf : i.wellFormed = true) (ht : exec i s = .next t) :
    s.LogsInside t := by
  have begun : s.LogsInside (i.entry s) := by rw [i.entry_eq]; exact .of_eq rfl rfl
  exact exec_relates ht (fun _ _ h => h.then_eq rfl rfl) (.of_eq rfl rfl)
    (fun _ => .of_eq rfl rfl) fun _ => Res.Inside.after begun (work_inside hwf _)

/-- Settles O52: events are caused by DiskRead and MemWrite alone, each inside its device, and every DiskRead is of a page, of a segment that holds bytes, or of the bytes of a real-mode READ. -/
theorem eventsStayInsideTheDevices : Obligations.EventsStayInsideTheDevices := by
  intro i s t hcfg hwf ht
  obtain ⟨events, htrace, hin⟩ := (exec_logsInside hwf ht).events hcfg
  exact ⟨events, htrace, fun off n => hin (.bsRead off n), fun a n => hin (.notice a n)⟩

end

end Sys2Proof.Machine

namespace Sys2Proof.Machine

/-- Work that makes stamps has done what it says wherever it completes. -/
theorem Res.Stamps.of_ok {α : Type} {c : Stamp} {n : Nat} {Q : α → State → Prop} {r : Res α}
    {a : α} {t : State} (h : r.Stamps c n Q) (hr : r = .ok a t) : Q a t := by
  obtain ⟨hroom, hfull⟩ := h
  by_cases hlt : c.toNat + n < 2 ^ 64
  · obtain ⟨b, u, hok, -, hq⟩ := hroom hlt
    obtain ⟨rfl, rfl⟩ := Res.ok.inj (hr.symm.trans hok)
    exact hq
  · exact absurd (hr.symm.trans (hfull (by omega))) nofun

section
variable {s t u : State}

/-! ## The bytes of regions under compaction (R163) -/

/-- Sliding descriptor `i` keeps the parameters, the mode and every other descriptor. -/
theorem slideTo_keeps {i cur : Nat} (h : slideTo i cur s = .ok () t) :
    t.cfg = s.cfg ∧ t.mode = s.mode ∧ ∀ j, j ≠ i → t.seg j = s.seg j := by
  obtain ⟨-, rfl⟩ | ⟨-, -, rfl⟩ | ⟨-, -, -, -, rfl⟩ := (slideTo_eq_ok i cur s t ()).1 h
  · exact ⟨rfl, rfl, fun _ _ => rfl⟩
  · exact ⟨rfl, rfl, fun _ hj => State.setSeg_seg_other _ _ _ _ hj⟩
  · exact ⟨rfl, rfl, fun _ hj => State.setSeg_seg_other _ _ _ _ hj⟩

/-- Outside paged mode a region's bytes slide with it, and no byte outside the place it slides to changes (R163). -/
theorem slideTo_bytes {i cur : Nat} (hp : s.mode.pag = false) (h : slideTo i cur s = .ok () t) :
    (∀ a, a < cur ∨ cur + s.regionSize (s.seg i) ≤ a → t.byte a = s.byte a) ∧
      ∀ k < s.regionSize (s.seg i), t.byte (cur + k) = s.byte ((s.seg i).base.toNat + k) := by
  obtain ⟨rfl, rfl⟩ | ⟨-, hstill, rfl⟩ | ⟨-, -, -, -, rfl⟩ := (slideTo_eq_ok i cur s t ()).1 h
  · exact ⟨fun _ _ => rfl, fun _ _ => rfl⟩
  · exact ⟨fun _ _ => rfl, fun k hk => absurd ⟨hp, by omega⟩ hstill⟩
  · exact ⟨fun a ha => Memory.read_write_outside _ _ _ _ (by simpa using ha),
      fun k hk => Memory.read_write_readRange _ _ _ _ _ _ hk⟩

/-- Outside paged mode, where the regions left to slide stand in order above `cur`, each takes its bytes to its place in the packing, and no byte below `cur` changes: a region slides down, onto no byte of a later one (R163). -/
theorem compactFrom_bytes {order : List Nat} {cur : Nat} (hp : s.mode.pag = false)
    (hnodup : order.Nodup) (horder : order.Pairwise fun i j =>
      inOrder ((s.seg i).base.toNat, s.regionSize (s.seg i))
        ((s.seg j).base.toNat, s.regionSize (s.seg j)))
    (habove : ∀ i ∈ order, 0 < s.regionSize (s.seg i) → cur ≤ (s.seg i).base.toNat)
    (h : compactFrom order cur s = .ok () t) : (∀ a < cur, t.byte a = s.byte a) ∧
      ∀ p ∈ packing s order cur, ∀ k < s.regionSize (s.seg p.1),
        t.byte (p.2 + k) = s.byte ((s.seg p.1).base.toNat + k) := by
  induction order generalizing s cur with
  | nil =>
    obtain ⟨-, rfl⟩ := Res.ok.inj h
    exact ⟨fun _ _ => rfl, nofun⟩
  | cons i rest ih =>
    obtain ⟨hi, hnodup⟩ := List.nodup_cons.1 hnodup
    obtain ⟨hfirst, horder⟩ := List.pairwise_cons.1 horder
    obtain ⟨hcur, habove⟩ := List.forall_mem_cons.1 habove
    obtain ⟨⟨⟩, u, hslide, hrest⟩ := (Res.bind_eq_ok _ _ _ _).1 h
    obtain ⟨hcfg, hmode, hother⟩ := slideTo_keeps hslide
    obtain ⟨houtside, hslid⟩ := slideTo_bytes hp hslide
    have seg : ∀ j ∈ rest, u.seg j = s.seg j := fun j hj => hother j (by rintro rfl; exact hi hj)
    have size (d : Descriptor) : u.regionSize d = s.regionSize d := by
      rw [State.regionSize, hcfg, hmode]; rfl
    have beyond : ∀ j ∈ rest, 0 < s.regionSize (s.seg j) →
        cur + s.regionSize (s.seg i) ≤ (s.seg j).base.toNat := fun j hj hpos => by
      have hcurj := habove j hj hpos
      have hij := hfirst j hj
      dsimp only [inOrder] at hij
      omega
    obtain ⟨hbelow, hpacked⟩ := ih (s := u) (by rw [hmode]; exact hp) hnodup
      (horder.imp_of_mem fun {j k} hj hk hjk => by rw [size, size, seg j hj, seg k hk]; exact hjk)
      (fun j hj => by rw [size, seg j hj]; exact beyond j hj) hrest
    refine ⟨fun a ha => ?_, List.forall_mem_cons.2 ⟨fun k hk => ?_, fun p hq k hk => ?_⟩⟩
    · rw [hbelow a (by omega), houtside a (.inl ha)]
    · simp only [] at hk ⊢
      rw [hbelow _ (by omega), hslid k hk]
    · rw [← packing_congr (t := u) fun j hj => by rw [size, seg j hj]] at hq
      have hmem : p.1 ∈ rest := by simpa using List.mem_map_of_mem (f := Prod.fst) hq
      have hbase := beyond p.1 hmem (by omega)
      have moved := hpacked p hq k (by rw [size, seg _ hmem]; exact hk)
      rw [moved, seg _ hmem, houtside _ (.inr (by omega))]

/-- In paged mode compaction moves reservations and no byte (R163). -/
theorem compactFrom_mem_of_pag {order : List Nat} {cur : Nat} (hp : s.mode.pag = true)
    (h : compactFrom order cur s = .ok () t) : t.mem = s.mem := by
  induction order generalizing s cur with
  | nil => obtain ⟨-, rfl⟩ := Res.ok.inj h; rfl
  | cons i rest ih =>
    obtain ⟨⟨⟩, u, hslide, hrest⟩ := (Res.bind_eq_ok _ _ _ _).1 h
    obtain ⟨-, hmode, -⟩ := slideTo_keeps hslide
    refine (ih (by rw [hmode]; exact hp) hrest).trans ?_
    obtain ⟨-, rfl⟩ | ⟨-, -, rfl⟩ | ⟨-, ⟨hnot, -⟩, -⟩ := (slideTo_eq_ok i cur s u ()).1 hslide
    · rfl
    · rfl
    · simp [hp] at hnot

theorem compact_mem_of_pag (hp : s.mode.pag = true) (h : compact s = .ok () t) : t.mem = s.mem :=
  compactFrom_mem_of_pag hp h

/-- `ValidOrder` with bases and sizes is the list of regions. -/
theorem State.Sound.regions_eq (h : s.Sound) : regions s =
    (validOrder s).map fun i => ((s.seg i).base.toNat, s.regionSize (s.seg i)) := by
  unfold regions validOrder
  rw [List.map_map]
  refine List.map_congr_left fun p hp => ?_
  obtain ⟨hseg, -⟩ := (h.mem_validEntries p.1 p.2).1 ((mem_byBase p).1 hp)
  simp [hseg]

/-- The regions that are valid in `t` hold there, wherever they now are, the bytes they held in `s`. -/
def State.CarriesRegions (s t : State) : Prop :=
  ∀ i, (t.seg i).valid = true → ∀ k < s.regionSize (s.seg i),
    t.byte ((t.seg i).base.toNat + k) = s.byte ((s.seg i).base.toNat + k)

/-- Outside paged mode compaction takes every region's bytes with it (R163). -/
theorem compact_carriesRegions (h : s.Sound) (hp : s.mode.pag = false)
    (hc : compact s = .ok () t) : s.CarriesRegions t := by
  intro i hv k hk
  have room : 0 + usedBytes s ≤ s.cfg.memSize := by
    have := h.totalFree_add_usedBytes
    omega
  obtain ⟨t', ht', hre, -, hpacked⟩ := compactFrom_completes (s := s) (order := validOrder s)
    (cur := 0) h.validOrder_nodup (fun i hi => by
      have hv := (h.mem_validOrder i).1 hi
      exact ⟨h.lt_of_valid hv, (h.seg i (h.lt_of_valid hv) hv).1⟩) room
  obtain ⟨-, rfl⟩ := Res.ok.inj (hc.symm.trans ht')
  have ordered := h.regions_inOrder
  rw [h.regions_eq, List.pairwise_map] at ordered
  obtain ⟨-, hbytes⟩ := compactFrom_bytes hp h.validOrder_nodup ordered
    (fun _ _ _ => Nat.zero_le _) hc
  have hi := (h.mem_validOrder i).2 (hre.valid hv)
  rw [← packing_selectors s (validOrder s) 0] at hi
  obtain ⟨⟨i, c⟩, hmem, rfl⟩ := List.mem_map.1 hi
  have hend : c + s.regionSize (s.seg i) ≤ 0 + usedBytes s :=
    ((packing_inOrder s (validOrder s) 0).1 _ hmem).2
  have hpos : 0 < s.regionSize (s.seg i) := Nat.zero_lt_of_lt hk
  have hbase : (toReg32 c).toNat = c :=
    (toReg32_inside h.params (show c + s.regionSize (s.seg i) ≤ s.cfg.memSize by omega)).2 hpos
  rw [hpacked _ hmem]
  simp only [hbase]
  exact hbytes _ hmem k hk

/-- Outside paged mode allocation takes the bytes of every region that stays valid with it (R163, R165). -/
theorem allocate_carriesRegions (h : s.Sound) (hp : s.mode.pag = false) {size a : Nat}
    (hsize : size ≤ s.cfg.memSize) (ha : allocate size s = .ok a t) : s.CarriesRegions t := by
  obtain ⟨-, rfl⟩ | ⟨-, -, hc⟩ := (allocate_eq_ok _ _ _ _).1 ha
  · exact fun _ _ _ _ => rfl
  split at hc
  · exact compact_carriesRegions h hp hc
  obtain ⟨hre, hsound, -⟩ := evictUntil_makes_room h hsize
    (fun i hv => (h.mem_victimOrder i).2 hv) fun i hi => h.lt_of_valid ((h.mem_victimOrder i).1 hi)
  have evicted := evictUntil_frame size (victimOrder s) s
  intro i hv k hk
  rw [← hre.regionSize_seg] at hk
  rw [compact_carriesRegions hsound (by rw [hre.mode]; exact hp) hc i hv k hk]
  have base : ((evictUntil size (victimOrder s) s).seg i).base = (s.seg i).base := by
    obtain hseg | hseg := evictUntil_seg size (victimOrder s) s i
    · rw [hseg]
    · rw [hseg]
  rw [base, evicted]
  rfl

/-- Allocation that answers has moved and evicted regions, and no more (R163, R165). -/
theorem allocate_rearranged (h : s.Sound) {size a : Nat} (hpos : 1 ≤ size)
    (hsize : size ≤ s.cfg.memSize) (ha : allocate size s = .ok a t) : s.Rearranged t := by
  obtain ⟨b, u, hb, hre, -⟩ := allocate_completes h hpos hsize
  obtain ⟨-, rfl⟩ := Res.ok.inj (ha.symm.trans hb)
  exact hre

/-- Allocation that answers has found a place for the region in a sound state (R165, R169). -/
theorem placedAt_of_allocate (h : s.Sound) {i a : Nat} (hlimit : (s.seg i).limit ≠ 0)
    (hvalid : (s.seg i).valid = false) (hsize : s.regionSize (s.seg i) ≤ s.cfg.memSize)
    (ha : allocate (s.regionSize (s.seg i)) s = .ok a t) : t.Sound ∧ s.PlacedAt i a t ∧
      t = { s with st := t.st, mem := t.mem, trace := t.trace } := by
  obtain ⟨b, u, hb, hplaced⟩ := allocate_placedAt h hlimit hvalid hsize
  obtain ⟨rfl, rfl⟩ := Res.ok.inj (ha.symm.trans hb)
  exact hplaced

/-- In paged mode allocation changes no byte (R163, R165). -/
theorem allocate_mem_of_pag (hp : s.mode.pag = true) {size a : Nat}
    (ha : allocate size s = .ok a t) : t.mem = s.mem := by
  obtain ⟨-, rfl⟩ | ⟨-, -, hc⟩ := (allocate_eq_ok _ _ _ _).1 ha
  · rfl
  split at hc
  · exact compact_mem_of_pag hp hc
  · have evicted := evictUntil_frame size (victimOrder s) s
    rw [compact_mem_of_pag (by rw [evicted]; exact hp) hc, evicted]

/-! ## Resident copies that equal their source (R76, R140)

Coherence speaks of the parameters, the mode, the segment and page tables and the memory alone, so a
state that differs elsewhere is coherent by the same proof. -/

theorem State.coherent_of_pag (hp : s.mode.pag = true) : s.coherent ↔ s.pagesCoherent := by
  simp [State.coherent, hp]

theorem State.coherent_of_not_pag (hp : s.mode.pag = false) : s.coherent ↔
    (∀ v < s.cfg.numVPages, (s.page v).resident = false) ∧ s.segmentsCoherent := by
  simp [State.coherent, hp]

/-- Pages stay coherent where the resident ones of `t` are resident in `s` at the same frames. -/
theorem State.pagesCoherent_of_page (h : s.pagesCoherent) (hcfg : t.cfg = s.cfg)
    (hmem : t.mem = s.mem) (hpage : ∀ v, (t.page v).resident = true →
      (s.page v).resident = true ∧ (t.page v).frame = (s.page v).frame) : t.pagesCoherent := by
  intro v hv hr k hk
  obtain ⟨hres, hframe⟩ := hpage v hr
  rw [hcfg] at hv hk ⊢
  rw [hframe, State.byte, hmem]
  exact h v hv hres k hk

/-- Segments stay coherent where the valid ones of `t` are valid in `s` and hold the bytes they held there. -/
theorem State.segmentsCoherent_of_seg (h : s.segmentsCoherent) (hcfg : t.cfg = s.cfg)
    (hseg : ∀ i, (t.seg i).valid = true → (s.seg i).valid = true ∧
      (t.seg i).diskBase = (s.seg i).diskBase ∧ (t.seg i).limit = (s.seg i).limit ∧
      ∀ k < (s.seg i).limit.toNat,
        t.byte ((t.seg i).base.toNat + k) = s.byte ((s.seg i).base.toNat + k)) :
    t.segmentsCoherent := by
  intro i hi hv k hk
  obtain ⟨hvalid, hdisk, hlimit, hbytes⟩ := hseg i hv
  rw [hcfg] at hi ⊢
  rw [hlimit] at hk
  rw [hbytes k hk, hdisk]
  exact h i hi hvalid k hk

/-! ### Segments -/

/-- Moving and evicting regions keeps segments coherent where the regions carry their bytes. -/
theorem State.Rearranged.segmentsCoherent (hre : s.Rearranged t) (hp : s.mode.pag = false)
    (hbytes : s.CarriesRegions t) (h : s.segmentsCoherent) : t.segmentsCoherent := by
  refine State.segmentsCoherent_of_seg h hre.cfg fun i hv => ?_
  obtain ⟨-, hdisk, hlimit, -⟩ := hre.registration i
  refine ⟨hre.valid hv, hdisk, hlimit, fun k hk => hbytes i hv k ?_⟩
  rwa [State.regionSize_of_not_pag hp]

/-- A write of one byte or more changes the memory as it says, and beside it the trace alone (R64). -/
theorem memWrite_eq_of_length_pos {a : Nat} {v : List Byte} (hv : 0 < v.length)
    (h : memWrite a v s = .ok () t) :
    t = { s with mem := Memory.write s.mem a v, trace := t.trace } := by
  obtain ⟨-, rfl⟩ := (memWrite_eq_ok _ _ _ _ _).1 h
  rw [if_neg (List.ne_nil_of_length_pos hv)]
  rfl

/-- A segment loaded into a free place is coherent, and so is every other segment still (R167). -/
theorem segmentsCoherent_of_load (h : s.segmentsCoherent) (hp : s.mode.pag = false)
    (hwf : s.cfg.wf) {i a : Nat} (hlimit : (s.seg i).limit ≠ 0)
    (hfree : freeAt s (s.seg i).limit.toNat a)
    (ht : t = { s with
      mem := Memory.write s.mem a
        (Memory.readRange s.cfg.disk (s.seg i).diskBase.toNat (s.seg i).limit.toNat)
      trace := t.trace }) :
    (t.setSeg i { t.seg i with base := toReg32 a, valid := true }).segmentsCoherent := by
  obtain ⟨hinside, hapart⟩ := hfree
  have hbase := (toReg32_inside hwf hinside).2 (limit_pos hlimit)
  have hcfg : t.cfg = s.cfg := by rw [ht]
  have seg (j : Nat) : t.seg j = s.seg j := by rw [ht]; rfl
  have byte (b : Nat) : t.byte b = Memory.read (Memory.write s.mem a
      (Memory.readRange s.cfg.disk (s.seg i).diskBase.toNat (s.seg i).limit.toNat)) b := by
    rw [ht]; rfl
  intro j hj hv k hk
  rw [State.setSeg_cfg, hcfg] at hj ⊢
  rw [State.setSeg_byte, byte]
  by_cases hji : j = i
  · subst hji
    rw [State.setSeg_seg_same, seg] at hk ⊢
    simp only [hbase]
    exact Memory.read_write_readRange _ _ _ _ _ _ hk
  · rw [State.setSeg_seg_other _ _ _ _ hji, seg] at hv hk ⊢
    have away := hapart j hj hv (limit_pos hlimit)
    rw [State.regionSize_of_not_pag hp] at away
    have := away (by omega)
    refine (Memory.read_write_outside _ _ _ _ ?_).trans (h j hj hv k hk)
    rw [Memory.length_readRange]
    omega

/-- SegmentLoad keeps segments coherent (R167, R140). -/
theorem segmentLoad_segmentsCoherent (h : s.Sound) (hp : s.mode.pag = false)
    (hcoherent : s.segmentsCoherent) {i : Nat} (hlimit : (s.seg i).limit ≠ 0)
    (hvalid : (s.seg i).valid = false) (hload : segmentLoad i s = .ok () t) :
    t.segmentsCoherent := by
  obtain ⟨a, u, w, hsize, halloc, -, hw, rfl⟩ := (segmentLoad_eq_ok _ _ _).1 hload
  have size := State.regionSize_of_not_pag hp (s.seg i)
  obtain ⟨hsound, hplaced, -⟩ := placedAt_of_allocate h hlimit hvalid (by rw [size]; exact hsize)
    (by rw [size]; exact halloc)
  have hre := allocate_rearranged h (limit_pos hlimit) hsize halloc
  have carried := hre.segmentsCoherent hp (allocate_carriesRegions h hp hsize halloc) hcoherent
  have hfree := hplaced.free
  rw [size, ← hplaced.limit] at hfree
  have written := memWrite_eq_of_length_pos
    (by rw [Memory.length_readRange]; exact limit_pos hlimit) hw
  rw [← hplaced.diskBase, ← hplaced.limit] at written
  exact segmentsCoherent_of_load carried (by rw [hplaced.mode]; exact hp) hsound.params
    (by rw [hplaced.limit]; exact hlimit) hfree written

/-! ### Pages -/

/-- The choice of a frame moves no page and changes no byte (R194 to R196). -/
theorem chooseFrame_keeps {f : Nat} (h : chooseFrame s = .ok f t) : t.cfg = s.cfg ∧
    t.mem = s.mem ∧ ∀ v, (t.page v).resident = true → t.page v = s.page v := by
  obtain ⟨-, rfl⟩ | ⟨-, -, hevict⟩ := (chooseFrame_eq_ok _ _ _).1 h
  · exact ⟨rfl, rfl, fun _ _ => rfl⟩
  obtain ⟨-, -, rfl⟩ := (evictPage_eq_ok _ _ _).1 hevict
  refine ⟨rfl, rfl, fun v hr => ?_⟩
  rw [State.setFrame_page] at hr ⊢
  refine State.setPage_page_other _ _ _ _ ?_
  rintro rfl
  simp at hr

/-- Bytes of different frames are different bytes (R95). -/
theorem frame_bytes_apart {size f g k : Nat} (hne : g ≠ f) (hk : k < size) :
    g * size + k < f * size ∨ f * size + size ≤ g * size + k := by
  rcases Nat.lt_or_gt_of_ne hne with hlt | hlt
  · have := Nat.mul_le_mul_right size (Nat.succ_le_of_lt hlt)
    rw [Nat.succ_mul] at this
    omega
  · have := Nat.mul_le_mul_right size (Nat.succ_le_of_lt hlt)
    rw [Nat.succ_mul] at this
    omega

/-- A page loaded into a free frame is coherent, and so is every other resident page still (R198). -/
theorem pagesCoherent_of_load (h : s.pagesCoherent) (hs : s.Sound) {v f : Nat} {e : FrameEntry}
    (hfree : (s.frame f).resident = false) (ht : t = { s with
      mem := Memory.write s.mem (f * s.cfg.pageSize)
        (Memory.readRange s.cfg.disk (v * s.cfg.pageSize) s.cfg.pageSize)
      trace := t.trace }) :
    ((t.setPage v { t.page v with frame := f, resident := true }).setFrame f e).pagesCoherent := by
  have hcfg : t.cfg = s.cfg := by rw [ht]
  have page (w : Nat) : t.page w = s.page w := by rw [ht]; rfl
  have byte (b : Nat) : t.byte b = Memory.read (Memory.write s.mem (f * s.cfg.pageSize)
      (Memory.readRange s.cfg.disk (v * s.cfg.pageSize) s.cfg.pageSize)) b := by rw [ht]; rfl
  intro w hw hr k hk
  rw [State.setFrame_cfg, State.setPage_cfg, hcfg] at hw hk ⊢
  rw [State.setFrame_page] at hr ⊢
  rw [State.setFrame_byte, State.setPage_byte, byte]
  by_cases hwv : w = v
  · subst hwv
    rw [State.setPage_page_same]
    exact Memory.read_write_readRange _ _ _ _ _ _ hk
  · rw [State.setPage_page_other _ _ _ _ hwv, page] at hr ⊢
    obtain ⟨-, hheld, -⟩ := hs.page.1 w hw hr
    have hne : (s.page w).frame ≠ f := by
      intro he
      rw [he, hfree] at hheld
      nomatch hheld
    refine (Memory.read_write_outside _ _ _ _ ?_).trans (h w hw hr k hk)
    rw [Memory.length_readRange]
    exact frame_bytes_apart hne hk

theorem pageFault_pagesCoherent (h : s.Sound) (hcoherent : s.pagesCoherent) {v f : Nat}
    (hfault : pageFault v s = .ok f t) : t.pagesCoherent := by
  obtain ⟨u, w, hchoose, -, hw, rfl⟩ := (pageFault_eq_ok _ _ _ _).1 hfault
  obtain ⟨f', u', hchoose', -, hfree, -, hsound, -⟩ := chooseFrame_completes h
  rw [hchoose] at hchoose'
  obtain ⟨rfl, rfl⟩ := Res.ok.inj hchoose'
  obtain ⟨hcfg, hmem, hpage⟩ := chooseFrame_keeps hchoose
  have chosen : u.pagesCoherent := State.pagesCoherent_of_page hcoherent hcfg hmem fun v hr =>
    ⟨by rw [← hpage v hr]; exact hr, by rw [hpage v hr]⟩
  have written := memWrite_eq_of_length_pos (by simpa using u.cfg.pageSize_pos) hw
  exact pagesCoherent_of_load chosen hsound hfree written

/-- Marking pages populated makes none resident (R168, R216). -/
theorem populatePages_pagesCoherent (h : s.pagesCoherent) {v n : Nat}
    (hmarked : populatePages v n s = .ok () t) : t.pagesCoherent := by
  obtain ⟨-, hframe, -⟩ := (populatePages_eq_ok _ _ _ _).1 hmarked
  refine State.pagesCoherent_of_page h (by rw [hframe]) (by rw [hframe]) fun p hr => ?_
  rw [populatePages_page _ _ _ _ hmarked] at hr ⊢
  split at hr
  next hin => rw [if_pos hin]; exact ⟨hr, rfl⟩
  next hout => rw [if_neg hout]; exact ⟨hr, rfl⟩

/-- `EnsurePage` completes for a populated page of the table alone (R191 to R193). -/
theorem ensurePage_found {visit : Bool} {v f : Nat} (h : ensurePage visit v s = .ok f t) :
    v < s.cfg.numVPages ∧ (s.page v).populated = true := by
  obtain ⟨u, ⟨hhit, -⟩ | ⟨hmiss, -⟩, -⟩ := (ensurePage_eq_ok _ _ _ _ _).1 h
  · obtain ⟨hv, hpop, -⟩ := (pageLookup_eq_some _ _ _ _).1 hhit
    exact ⟨hv, hpop⟩
  · obtain ⟨hv, hpop, -⟩ := (pageLookup_eq_none _ _ _).1 hmiss
    exact ⟨hv, hpop⟩

/-- `EnsurePage` keeps pages coherent (R191, R140). -/
theorem ensurePage_pagesCoherent (h : s.Working) (hcoherent : s.pagesCoherent) {visit : Bool}
    {v f : Nat} (hensure : ensurePage visit v s = .ok f t) :
    f < s.cfg.numFrames ∧ s.Repaged t ∧ t.Working ∧ t.pagesCoherent := by
  obtain ⟨u, hlookup, hstamp⟩ := (ensurePage_eq_ok _ _ _ _ _).1 hensure
  obtain ⟨hv, hpop⟩ := ensurePage_found hensure
  obtain ⟨hf, hre, hwork⟩ := (ensurePage_stamps h visit hv hpop).of_ok hensure
  have loaded : u.pagesCoherent := by
    rcases hlookup with ⟨-, rfl⟩ | ⟨-, hfault⟩
    · exact hcoherent
    · cases visit with
      | true => exact pageFault_pagesCoherent (h.enter .pageFault).sound hcoherent hfault
      | false => exact pageFault_pagesCoherent h.sound hcoherent hfault
  obtain ⟨-, rfl⟩ := (stampFrame_eq_ok _ _ _ _).1 hstamp
  exact ⟨hf, hre, hwork, loaded⟩

theorem loadPages_pagesCoherent (h : s.Working) (hcoherent : s.pagesCoherent) {n v : Nat}
    (hload : loadPages n v s = .ok () t) : t.pagesCoherent := by
  induction n generalizing v s with
  | zero => obtain ⟨-, rfl⟩ := Res.ok.inj hload; exact hcoherent
  | succ n ih =>
    obtain ⟨f, u, hensure, hrest⟩ := (Res.bind_eq_ok _ _ _ _).1 hload
    obtain ⟨-, -, hwork, hloaded⟩ := ensurePage_pagesCoherent h hcoherent hensure
    exact ih hwork hloaded hrest

/-- SegmentRegister keeps pages coherent (R168, R140). -/
theorem segmentRegister_pagesCoherent (h : s.Working) (hp : s.mode.pag = true)
    (hcoherent : s.pagesCoherent) {i : Nat} (hi : i < s.cfg.numSegments)
    (hlimit : (s.seg i).limit ≠ 0) (hvalid : (s.seg i).valid = false)
    (hregister : segmentRegister i s = .ok () t) : t.pagesCoherent := by
  obtain ⟨a, u, w, x, hsize, halloc, hmarked, hload, rfl⟩ :=
    (segmentRegister_eq_ok _ _ _).1 hregister
  have size := State.regionSize_of_pag hp (s.seg i)
  obtain ⟨hsound, hplaced, hu⟩ := placedAt_of_allocate h.sound hlimit hvalid
    (by rw [size]; exact hsize) (by rw [size]; exact halloc)
  obtain ⟨-, hframe, -⟩ := (populatePages_eq_ok _ _ _ _).1 hmarked
  have based := hsound.setSeg_base (by rw [hplaced.cfg]; exact hi) hplaced.valid (toReg32 a)
  have hcfg : w.cfg = s.cfg := by rw [hframe, State.setSeg_cfg, hplaced.cfg]
  have work : w.Working := h.of_sound (based.populatePages hmarked) hcfg
    (by rw [hframe, State.setSeg_seq, hu])
  have placed : u.pagesCoherent := by
    refine State.pagesCoherent_of_page hcoherent hplaced.cfg (allocate_mem_of_pag hp halloc) ?_
    rw [hu]
    exact fun _ hr => ⟨hr, rfl⟩
  have marked : w.pagesCoherent := populatePages_pagesCoherent
    (s := u.setSeg i { u.seg i with base := toReg32 a }) placed hmarked
  exact (loadPages_pagesCoherent work marked hload :)

/-- One chunk keeps pages coherent (R130, R140). -/
theorem readChunk_pagesCoherent (h : s.Working) (hcoherent : s.pagesCoherent) {lin n : Nat}
    (hread : readChunk lin n s = .ok () t) : t.Working ∧ t.pagesCoherent := by
  rw [readChunk_eq] at hread
  obtain ⟨f, u, hensure, hread⟩ := (Res.bind_eq_ok _ _ _ _).1 hread
  obtain ⟨bytes, w, hbytes, hread⟩ := (Res.bind_eq_ok _ _ _ _).1 hread
  obtain ⟨-, rfl⟩ := Res.ok.inj hread
  obtain ⟨-, -, rfl⟩ := (memRead_eq_ok _ _ _ _ _).1 hbytes
  obtain ⟨hv, -⟩ := ensurePage_found hensure
  have looked := h.lookup (Nat.lt_of_div_lt_div hv)
  obtain ⟨hf, hre, hwork, hloaded⟩ := ensurePage_pagesCoherent looked hcoherent hensure
  exact ⟨(hwork.access (by rw [hre.cfg]; exact hf) _).setResult _,
    State.pagesCoherent_of_page hloaded rfl rfl fun _ hr => ⟨hr, rfl⟩⟩

theorem readChunks_pagesCoherent (h : s.Working) (hcoherent : s.pagesCoherent)
    {turns lin remain : Nat} (hread : readChunks turns lin remain s = .ok () t) :
    t.pagesCoherent := by
  induction turns generalizing lin remain s with
  | zero => obtain ⟨-, rfl⟩ := Res.ok.inj hread; exact hcoherent
  | succ turns ih =>
    unfold readChunks at hread
    split at hread
    · obtain ⟨-, rfl⟩ := Res.ok.inj hread
      exact hcoherent
    · obtain ⟨⟨⟩, u, hchunk, hrest⟩ := (Res.bind_eq_ok _ _ _ _).1 hread
      obtain ⟨hwork, hloaded⟩ := readChunk_pagesCoherent h hcoherent hchunk
      exact ih (s := u.advance _ _) (hwork.of_seq rfl ⟨rfl, rfl, rfl⟩) hloaded hrest

/-! ### READ -/

/-- Writing a descriptor that is valid only where its segment was already resident at the same place. -/
theorem State.coherent_setSeg (h : s.coherent) {i : Nat} {d : Descriptor}
    (hd : d.valid = true → (s.seg i).valid = true ∧ d.base = (s.seg i).base ∧
      d.diskBase = (s.seg i).diskBase ∧ d.limit = (s.seg i).limit) : (s.setSeg i d).coherent := by
  obtain ⟨hpaged, hunpaged⟩ := h
  refine ⟨hpaged, fun hp => ⟨(hunpaged hp).1, ?_⟩⟩
  refine State.segmentsCoherent_of_seg (hunpaged hp).2 rfl fun j hv => ?_
  by_cases hj : j = i
  · subst hj
    rw [State.setSeg_seg_same] at hv ⊢
    obtain ⟨hvalid, hbase, hdisk, hlimit⟩ := hd hv
    exact ⟨hvalid, hdisk, hlimit, fun k _ => by rw [hbase]; rfl⟩
  · rw [State.setSeg_seg_other _ _ _ _ hj] at hv ⊢
    exact ⟨hv, rfl, rfl, fun _ _ => rfl⟩

theorem stampSegment_coherent (h : s.coherent) {i : Nat} (hstamp : stampSegment i s = .ok () t) :
    t.coherent := by
  obtain ⟨-, rfl⟩ := (stampSegment_eq_ok _ _ _ _).1 hstamp
  have ticked : ({ s with clock := s.clock + 1 }).coherent := h
  exact State.coherent_setSeg ticked fun hv => ⟨hv, rfl, rfl, rfl⟩

/-- A segment fault keeps resident copies coherent (R126, R140). -/
theorem segmentFault_coherent (h : s.Working) (hcoherent : s.coherent) {sel : Nat}
    (hi : sel < s.cfg.numSegments) (hlimit : (s.seg sel).limit ≠ 0)
    (hvalid : (s.seg sel).valid = false) (hfault : segmentFault sel s = .ok () t) :
    t.coherent := by
  unfold segmentFault at hfault
  split at hfault
  next hp =>
    have kept := segmentRegister_ends (registrations_keptByRead sel) sel s hp
    rw [hfault] at kept
    refine (State.coherent_of_pag (by rw [kept.mode]; exact hp)).2 ?_
    exact segmentRegister_pagesCoherent h hp ((State.coherent_of_pag hp).1 hcoherent) hi hlimit
      hvalid hfault
  next hp =>
    simp only [Bool.not_eq_true] at hp
    have kept := segmentLoad_ends (registrations_keptByRead sel) sel s
    rw [hfault] at kept
    obtain ⟨hpages, hsegments⟩ := (State.coherent_of_not_pag hp).1 hcoherent
    refine (State.coherent_of_not_pag (by rw [kept.mode]; exact hp)).2 ⟨?_, ?_⟩
    · rw [kept.cfg]
      simpa only [State.page, (kept.tables hp).1] using hpages
    · exact segmentLoad_segmentsCoherent h.sound hp hsegments hlimit hvalid hfault

theorem segmentPhase_coherent (h : s.Working) (hcoherent : s.coherent) {sel : Nat}
    (hi : sel < s.cfg.numSegments) (hlimit : (s.seg sel).limit ≠ 0)
    (hphase : segmentPhase sel s = .ok () t) : t.coherent := by
  obtain ⟨u, ⟨-, rfl⟩ | ⟨hvalid, hfault⟩, hstamp⟩ := (segmentPhase_eq_ok _ _ _).1 hphase
  · exact stampSegment_coherent hcoherent hstamp
  · have entered : (s.enter .segmentFault).coherent := hcoherent
    exact stampSegment_coherent
      (segmentFault_coherent (h.enter .segmentFault) entered hi hlimit hvalid hfault) hstamp

/-- A segment-mode READ's access writes no table and no memory (R129). -/
theorem readSegment_coherent (hcoherent : s.coherent) {sel : Nat} {off len : Word32}
    (hread : readSegment sel off len s = .ok () t) : t.coherent := by
  obtain ⟨q, haccessed⟩ := s.accessed_eq ((s.seg sel).base.toNat + off.toNat)
    ((s.seg sel).base.toNat + off.toNat) len
  simp only [readSegment, haccessed, Res.bind_eq_ok, memRead_eq_ok] at hread
  obtain ⟨bytes, u, ⟨-, -, rfl⟩, hread⟩ := hread
  obtain ⟨-, rfl⟩ := Res.ok.inj hread
  exact hcoherent

/-- A real-mode READ writes no table and no memory (R123). -/
theorem readReal_coherent (hcoherent : s.coherent) {off len : Word32}
    (hread : readReal off len s = .ok () t) : t.coherent := by
  obtain ⟨q, haccessed⟩ := s.accessed_eq off.toNat off.toNat len
  unfold readReal at hread
  dsimp only at hread
  rw [haccessed] at hread
  split_ifs at hread
  · obtain ⟨-, rfl⟩ := Res.ok.inj hread
    exact hcoherent
  · obtain ⟨bytes, u, hdisk, hread⟩ := (Res.bind_eq_ok _ _ _ _).1 hread
    obtain ⟨-, -, rfl⟩ := (diskRead_eq_ok _ _ _ _ _).1 hdisk
    obtain ⟨-, rfl⟩ := Res.ok.inj hread
    exact hcoherent

/-- A segment phase completes only for a segment that is resident or fits the memory (R166). -/
theorem segmentPhase_room {sel : Nat} (h : segmentPhase sel s = .ok () t) :
    (s.seg sel).valid = true ∨ s.regionSize (s.seg sel) ≤ s.cfg.memSize := by
  by_contra hnot
  simp only [not_or, Bool.not_eq_true, not_le] at hnot
  obtain ⟨hvalid, hsize⟩ := hnot
  rw [segmentPhase_outOfMemory hvalid hsize] at h
  nomatch h

theorem readTranslated_coherent (h : s.Working) (hcoherent : s.coherent) {sel : Nat}
    {off len : Word32} (hread : readTranslated sel off len s = .ok () t) : t.coherent := by
  have kept := readTranslated_ends (registrations_keptByRead sel) off len s
  rw [hread] at kept
  obtain ⟨hchecks, u, hphase, haccess⟩ := (readTranslated_eq_ok _ _ _ _ _).1 hread
  obtain ⟨hi, hpop, hoff, -, -⟩ := (segmentChecks_eq_ok _ _ _ _ _).1 hchecks
  have hlimit : ((s.enter .segmentLookup).seg sel).limit ≠ 0 := by
    intro h0
    rw [h0] at hoff
    simp at hoff
  have entered : (s.enter .segmentLookup).coherent := hcoherent
  have ready := segmentPhase_coherent (h.enter .segmentLookup) entered hi hlimit hphase
  obtain ⟨hwork, -, hregs⟩ := (segmentPhase_stamps (h.enter .segmentLookup) hi hpop hlimit
    (segmentPhase_room hphase)).of_ok hphase
  have hmode : t.mode = u.mode := kept.mode.trans hregs.mode.symm
  split at haccess
  next hp =>
    refine (State.coherent_of_pag (by rw [hmode]; exact hp)).2 ?_
    have started : ((u.linear ((u.seg sel).diskBase.toNat + off.toNat) len).setResult []).Working :=
      (hwork.linear _ _).setResult _
    exact readChunks_pagesCoherent started ((State.coherent_of_pag hp).1 ready) haccess
  next => exact readSegment_coherent ready haccess

theorem readWork_coherent (h : s.Working) (hcoherent : s.coherent) {la : LogicalAddr}
    {len : Word32} (hread : readWork la len s = .ok () t) : t.coherent := by
  have latched : (s.latchSelector la).Working := h.of_seq rfl ⟨rfl, rfl, rfl⟩
  have same : (s.latchSelector la).coherent := hcoherent
  unfold readWork at hread
  dsimp only at hread
  split at hread
  · exact readTranslated_coherent latched same hread
  · exact readReal_coherent same hread

/-! ### The other commands -/

/-- REGSEG in paged mode, or of a segment that is not valid, keeps resident copies coherent (R214, R216). -/
theorem regsegWork_coherent (hcoherent : s.coherent) {index : Nat} {d : Descriptor}
    (hd : s.mode.pag = true ∨ d.valid = false) (hwork : regsegWork index d s = .ok () t) :
    t.coherent := by
  obtain ⟨⟨⟩, u, hchecks, hpopulate⟩ := (Res.bind_eq_ok _ _ _ _).1 hwork
  obtain rfl : u = s := by
    obtain hok | ⟨k, -, -, hraised⟩ := regsegChecks_eq index d s
    · exact (Res.ok.inj (hchecks.symm.trans hok)).2
    · exact absurd (hchecks.symm.trans hraised) nofun
  unfold regsegPopulate at hpopulate
  split at hpopulate
  next hpopulates =>
    obtain ⟨-, (hp : u.mode.pag = true), -⟩ := hpopulates
    obtain ⟨-, hframe, -⟩ := (populatePages_eq_ok _ _ _ _).1 hpopulate
    refine (State.coherent_of_pag (by rw [hframe]; exact hp)).2 ?_
    have pages : u.pagesCoherent := (State.coherent_of_pag hp).1 hcoherent
    exact populatePages_pagesCoherent (s := u.setSeg index d) pages hpopulate
  next =>
    obtain ⟨-, rfl⟩ := Res.ok.inj hpopulate
    rcases hd with hp | hd
    · have pages : u.pagesCoherent := (State.coherent_of_pag hp).1 hcoherent
      exact (State.coherent_of_pag (s := u.setSeg index d) hp).2 pages
    · exact State.coherent_setSeg hcoherent fun hv => by simp [hd] at hv

theorem invsegWork_coherent (hcoherent : s.coherent) {index : Nat}
    (hwork : invsegWork index s = .ok () t) : t.coherent := by
  unfold invsegWork at hwork
  split at hwork
  · nomatch hwork
  · obtain ⟨-, rfl⟩ := Res.ok.inj hwork
    exact State.coherent_setSeg hcoherent nofun

/-- A page that is not resident has no copy (R221). -/
theorem State.coherent_setPage (h : s.coherent) {v : Nat} {e : PageEntry}
    (he : e.resident = false) : (s.setPage v e).coherent := by
  have page (w : Nat) (hr : ((s.setPage v e).page w).resident = true) :
      (s.setPage v e).page w = s.page w := by
    refine State.setPage_page_other _ _ _ _ ?_
    rintro rfl
    simp [he] at hr
  obtain ⟨hpaged, hunpaged⟩ := h
  refine ⟨fun hp => ?_, fun hp => ⟨fun w hw => ?_, (hunpaged hp).2⟩⟩
  · refine State.pagesCoherent_of_page (hpaged hp) rfl rfl fun w hr => ?_
    have same := page w hr
    rw [same] at hr ⊢
    exact ⟨hr, rfl⟩
  · by_contra hr
    simp only [Bool.not_eq_false] at hr
    rw [page w hr, (hunpaged hp).1 w hw] at hr
    nomatch hr

theorem dropPage_coherent (h : s.coherent) (v : Nat) : (dropPage v s).coherent := by
  have freed (f : Nat) (x : FrameEntry) : (s.setFrame f x).coherent := h
  exact State.coherent_setPage (freed _ _) rfl

theorem invpageWork_coherent (hcoherent : s.coherent) {v : Nat}
    (hwork : invpageWork v s = .ok () t) : t.coherent := by
  unfold invpageWork at hwork
  split_ifs at hwork
  · obtain ⟨-, rfl⟩ := Res.ok.inj hwork
    exact dropPage_coherent hcoherent _
  · obtain ⟨-, rfl⟩ := Res.ok.inj hwork
    exact hcoherent

/-- TablesClear leaves no page resident: a resident page's frame would be resident too (R43, R230). -/
theorem State.Sound.resident_of_tablesClear (h : s.Sound) (hclear : tablesClear s = true)
    {v : Nat} (hv : v < s.cfg.numVPages) : (s.page v).resident = false := by
  by_contra hr
  simp only [Bool.not_eq_false] at hr
  obtain ⟨-, -, ⟨hwf, -⟩, -⟩ := h.canonical
  obtain ⟨-, hframe, -⟩ := h.page.1 v hv hr
  have listed : ((s.page v).frame, s.frame (s.page v).frame) ∈ s.rpt :=
    (Sparse.mem_iff _ _ hwf _ _).2 ⟨rfl, fun he => by simp [he, FrameEntry.empty] at hframe⟩
  simp only [tablesClear, Bool.and_eq_true, List.all_eq_true, and_assoc] at hclear
  obtain ⟨-, -, hfree⟩ := hclear
  simpa [hframe] using hfree _ listed

/-- SETMODE changes PAG only where nothing is resident (R230). -/
theorem setmodeWork_coherent (h : s.Sound) (hcoherent : s.coherent) {seg pag : Bool}
    (hwork : setmodeWork seg pag s = .ok () t) : t.coherent := by
  unfold setmodeWork at hwork
  split_ifs at hwork with hillegal hchange
  obtain ⟨-, rfl⟩ := Res.ok.inj hwork
  by_cases hpag : pag = s.mode.pag
  · subst hpag
    exact hcoherent
  · have hclear : tablesClear s = true := by simpa [hpag] using hchange
    have pages : ∀ v < s.cfg.numVPages, (s.page v).resident = false :=
      fun v hv => h.resident_of_tablesClear hclear hv
    refine ⟨fun _ v hv hr => ?_, fun _ => ⟨pages, fun i _ hv => ?_⟩⟩
    · exact absurd hr (Bool.eq_false_iff.1 (pages v hv))
    · exact absurd hv (Bool.eq_false_iff.1 (h.valid_of_tablesClear hclear i))

/-! ### Every command -/

/-- The work of a command that may not desynchronise keeps resident copies coherent where it completes (R76, R283). -/
theorem work_coherent (h : s.Working) (hcoherent : s.coherent) {i : Instr}
    (hdesync : mayDesync i s = false) (hwork : i.work s = .ok () t) : t.coherent := by
  cases i with
  | read la len => exact readWork_coherent h hcoherent hwork
  | write pa len data => nomatch hdesync
  | regseg index base diskBase limit valid =>
    have harmless := (Bool.and_eq_false_iff.1 hdesync).symm
    exact regsegWork_coherent hcoherent (harmless.imp_left fun hp => by simpa using hp) hwork
  | invseg index => exact invsegWork_coherent hcoherent hwork
  | invpage vpn => exact invpageWork_coherent hcoherent hwork
  | clear =>
    obtain ⟨-, rfl⟩ := Res.ok.inj hwork
    exact ⟨fun _ _ _ => nofun, fun _ => ⟨fun _ _ => rfl, fun _ _ => nofun⟩⟩
  | setmode seg pag => exact setmodeWork_coherent h.sound hcoherent hwork

theorem mayDesync_entry (i : Instr) (s : State) : mayDesync i (i.entry s) = mayDesync i s := by
  cases i <;> rfl

/-- Settles O30: an error or a refusal moves nothing; eviction takes copies away, compaction takes a region's bytes along, and a load writes the backing store's bytes where no resident copy stands. -/
theorem residentCopiesStayCoherent : Obligations.ResidentCopiesStayCoherent := by
  intro i s t h hcoherent _ hdesync ht
  have same (u : State) (hu : u = { s with seq := u.seq }) : u.coherent := by
    rw [hu]
    exact hcoherent
  refine exec_relates (R := fun _ u => u.coherent) ht (fun _ _ => id) hcoherent
    (fun _ => hcoherent) fun hf => ?_
  have settled := work_settles (h.working.entry i) ((i.entry_fatal s).trans hf) i
  cases hr : i.work (i.entry s) with
  | ok _ u =>
    exact work_coherent (h.working.entry i) (same _ (i.entry_eq s))
      ((mayDesync_entry i s).trans hdesync) hr
  | raised k u =>
    rw [hr] at settled
    cases settled with
    | raised _ _ hu => exact same u (by rw [hu, i.entry_eq])
  | exhausted => trivial
  | stop _ => trivial

end

end Sys2Proof.Machine

/-! PROOFS. Encoding and decoding of command words, what a command answers for the reserved parts of its operands, the data of a response, a paged READ of resident pages, and two commands that commute. -/

namespace Sys2Proof

open Machine

/-! ## Fields of a command word (R7, R96) -/

theorem bitField_or (v w : CmdWord) (lo n : Nat) :
    bitField (v ||| w) lo n = bitField v lo n ||| bitField w lo n := by
  simp [bitField, BitVec.extractLsb'_or]

/-- An operand is read back where it was placed. -/
theorem bitField_placeField {n lo : Nat} (x : BitVec n) (h : lo + n ≤ 128) :
    bitField (placeField x lo) lo n = x := by
  apply BitVec.eq_of_getLsbD_eq
  intro k hk
  rw [bitField_getLsbD, placeField_at x lo k (by omega)]
  simp [hk]

/-- A field that shares no bit with a placed operand reads as zero. -/
theorem bitField_placeField_apart {n m lo lo' : Nat} (x : BitVec n)
    (h : lo' + m ≤ lo ∨ lo + n ≤ lo') : bitField (placeField x lo) lo' m = 0 := by
  apply BitVec.eq_of_getLsbD_eq
  intro k hk
  rw [bitField_getLsbD]
  rcases h with hbelow | habove
  · simp [placeField_below x lo (lo' + k) (by omega)]
  · simp [placeField_above x lo (lo' + k) (by omega)]

/-- A flag is read back from its bit. -/
theorem flagBit_beq_one (b : Bool) : (flagBit b == 1#1) = b := by
  cases b <;> rfl

/-! ## The decoder by opcode (R104) -/

theorem decodeWord_of_read {w : CmdWord} (h : opOf w = 0) (rest : List Input) :
    decodeWord w rest = .ok (decodeRead w, rest) := by
  rw [decodeWord, if_pos h]

theorem decodeWord_of_write {w : CmdWord} (h : opOf w = 1) (rest : List Input) :
    decodeWord w rest = decodeWrite w rest := by
  simp [decodeWord, h]

theorem decodeWord_of_regseg {w : CmdWord} (h : opOf w = 2) (rest : List Input) :
    decodeWord w rest = .ok (decodeRegseg w, rest) := by
  simp [decodeWord, h]

theorem decodeWord_of_invseg {w : CmdWord} (h : opOf w = 3) (rest : List Input) :
    decodeWord w rest = .ok (decodeInvseg w, rest) := by
  simp [decodeWord, h]

theorem decodeWord_of_invpage {w : CmdWord} (h : opOf w = 4) (rest : List Input) :
    decodeWord w rest = .ok (decodeInvpage w, rest) := by
  simp [decodeWord, h]

theorem decodeWord_of_clear {w : CmdWord} (h : opOf w = 5) (rest : List Input) :
    decodeWord w rest = .ok (.clear, rest) := by
  simp [decodeWord, h]

theorem decodeWord_of_setmode {w : CmdWord} (h : opOf w = 6) (rest : List Input) :
    decodeWord w rest = .ok (decodeSetmode w, rest) := by
  simp [decodeWord, h]

/-! ## Decoding an encoded command (R97 to R103) -/

theorem decodeRead_encodeWord (la : LogicalAddr) (len : Word32) :
    decodeRead (encodeWord (.read la len)) = .read la len := by
  simp (disch := omega) [decodeRead, encodeWord, operandField, bitField_or, bitField_placeField,
    bitField_placeField_apart]

/-- WRITE's two operands are read back from its word (R98). -/
theorem bitField_encodeWord_write (pa len : Word32) (data : List Byte) :
    bitField (encodeWord (.write pa len data)) 32 32 = pa ∧
      bitField (encodeWord (.write pa len data)) 0 32 = len := by
  simp (disch := omega) [encodeWord, operandField, bitField_or, bitField_placeField,
    bitField_placeField_apart]

theorem decodeWrite_encodeWord {pa len : Word32} {data : List Byte} (rest : List Input)
    (h : data.length = len.toNat) :
    decodeWrite (encodeWord (.write pa len data)) (data.map .byte ++ rest) =
      .ok (.write pa len data, rest) := by
  obtain ⟨hpa, hlen⟩ := bitField_encodeWord_write pa len data
  have taken := (takePayload_eq_ok len.toNat (data.map .byte ++ rest) rest data).2 ⟨h, rfl⟩
  simp only [decodeWrite, hpa, hlen, taken]

theorem decodeRegseg_encodeWord (index : BitVec 13) (base diskBase : Word32) (limit : BitVec 31)
    (valid : Bool) : decodeRegseg (encodeWord (.regseg index base diskBase limit valid)) =
      .regseg index base diskBase limit valid := by
  simp (disch := omega) [decodeRegseg, encodeWord, operandField, packDescriptor, bitField_or,
    bitField_placeField, bitField_placeField_apart, flagBit_beq_one]

theorem decodeInvseg_encodeWord (index : BitVec 13) :
    decodeInvseg (encodeWord (.invseg index)) = .invseg index := by
  simp (disch := omega) [decodeInvseg, encodeWord, operandField, bitField_or, bitField_placeField,
    bitField_placeField_apart]

theorem decodeInvpage_encodeWord (vpn : Word32) :
    decodeInvpage (encodeWord (.invpage vpn)) = .invpage vpn := by
  simp (disch := omega) [decodeInvpage, encodeWord, operandField, bitField_or,
    bitField_placeField, bitField_placeField_apart]

theorem decodeSetmode_encodeWord (seg pag : Bool) :
    decodeSetmode (encodeWord (.setmode seg pag)) = .setmode seg pag := by
  simp (disch := omega) [decodeSetmode, encodeWord, operandField, bitField_or,
    bitField_placeField, bitField_placeField_apart, flagBit_beq_one]

/-- Settles O6: the opcode chooses the command's own decoder, and that reads each operand back where the encoder placed it. -/
theorem decodeOfEncodeIsTheCommand : Obligations.DecodeOfEncodeIsTheCommand := by
  intro i rest hwf
  change decodeWord (encodeWord i) (i.payload.map .byte ++ rest) = .ok (i, rest)
  have op := opOf_encodeWord i
  cases i with
  | read la len => exact (decodeWord_of_read op _).trans (by rw [decodeRead_encodeWord]; rfl)
  | write pa len data =>
    exact (decodeWord_of_write op _).trans
      (decodeWrite_encodeWord rest (by simpa [Instr.wellFormed] using hwf))
  | regseg index base diskBase limit valid =>
    exact (decodeWord_of_regseg op _).trans (by rw [decodeRegseg_encodeWord]; rfl)
  | invseg index => exact (decodeWord_of_invseg op _).trans (by rw [decodeInvseg_encodeWord]; rfl)
  | invpage vpn => exact (decodeWord_of_invpage op _).trans (by rw [decodeInvpage_encodeWord]; rfl)
  | clear => exact decodeWord_of_clear op _
  | setmode seg pag =>
    exact (decodeWord_of_setmode op _).trans (by rw [decodeSetmode_encodeWord]; rfl)

/-! ## What the decoder takes off the port (R96, R98, R108) -/

theorem decodeWrite_takes {w : CmdWord} {port rest : List Input} {i : Instr}
    (h : decodeWrite w port = .ok (i, rest)) :
    i.opcode = 1 ∧ port = i.payload.map .byte ++ rest := by
  unfold decodeWrite at h
  split at h
  next bs rest' htake =>
    obtain ⟨rfl, rfl⟩ := Prod.mk.inj (Except.ok.inj h)
    exact ⟨rfl, ((takePayload_eq_ok _ _ _ _).1 htake).2⟩
  next => nomatch h

/-- The command a word starts has the word's opcode, and its payload is what is taken off the port. -/
theorem decodeWord_takes {w : CmdWord} {port rest : List Input} {i : Instr}
    (h : decodeWord w port = .ok (i, rest)) :
    opOf w = i.opcode ∧ port = i.payload.map .byte ++ rest := by
  unfold decodeWord at h
  split_ifs at h with hread hwrite hregseg hinvseg hinvpage hclear hsetmode
  · obtain ⟨rfl, rfl⟩ := Prod.mk.inj (Except.ok.inj h); exact ⟨hread, rfl⟩
  · obtain ⟨hop, hport⟩ := decodeWrite_takes h; exact ⟨hwrite.trans hop.symm, hport⟩
  · obtain ⟨rfl, rfl⟩ := Prod.mk.inj (Except.ok.inj h); exact ⟨hregseg, rfl⟩
  · obtain ⟨rfl, rfl⟩ := Prod.mk.inj (Except.ok.inj h); exact ⟨hinvseg, rfl⟩
  · obtain ⟨rfl, rfl⟩ := Prod.mk.inj (Except.ok.inj h); exact ⟨hinvpage, rfl⟩
  · obtain ⟨rfl, rfl⟩ := Prod.mk.inj (Except.ok.inj h); exact ⟨hclear, rfl⟩
  · obtain ⟨rfl, rfl⟩ := Prod.mk.inj (Except.ok.inj h); exact ⟨hsetmode, rfl⟩

/-- Settles O7: only a word starts a command, and of the seven decoders WRITE's alone takes more off the port. -/
theorem decodedCommandIsWellFormedAndTakesItsPayload :
    Obligations.DecodedCommandIsWellFormedAndTakesItsPayload := by
  intro port i rest h
  refine ⟨decode_wellFormed h, ?_⟩
  rcases port with _ | ⟨w | _ | _, port⟩
  case nil => nomatch h
  case cons.word =>
    obtain ⟨hop, rfl⟩ := decodeWord_takes h
    exact ⟨w, rfl, hop⟩
  case cons.byte => nomatch h
  case cons.reset => nomatch h

/-! ## Reserved bits (R106) -/

section
variable {w w' : CmdWord}

/-- A field below bit `m` is the same in two words whose low `m` bits are. -/
theorem bitField_congr {m lo n : Nat} (h : w.toNat % 2 ^ m = w'.toNat % 2 ^ m) (hn : lo + n ≤ m) :
    bitField w lo n = bitField w' lo n := by
  apply BitVec.eq_of_getLsbD_eq
  intro k hk
  have bit := congrArg (Nat.testBit · (lo + k)) h
  simp only [Nat.testBit_mod_two_pow, show lo + k < m by omega, decide_true,
    Bool.true_and] at bit
  rw [bitField_getLsbD, bitField_getLsbD, BitVec.getLsbD, bit, BitVec.getLsbD]

theorem decodeRead_congr (h : w.toNat % 2 ^ 80 = w'.toNat % 2 ^ 80) :
    decodeRead w = decodeRead w' := by
  unfold decodeRead
  rw [bitField_congr h (by omega : 32 + 48 ≤ 80), bitField_congr h (by omega : 0 + 32 ≤ 80)]

theorem decodeWrite_congr (h : w.toNat % 2 ^ 64 = w'.toNat % 2 ^ 64) (rest : List Input) :
    decodeWrite w rest = decodeWrite w' rest := by
  unfold decodeWrite
  rw [bitField_congr h (by omega : 32 + 32 ≤ 64), bitField_congr h (by omega : 0 + 32 ≤ 64)]

theorem decodeRegseg_congr (h : w.toNat % 2 ^ 109 = w'.toNat % 2 ^ 109) :
    decodeRegseg w = decodeRegseg w' := by
  unfold decodeRegseg
  rw [bitField_congr h (by omega : 96 + 13 ≤ 109), bitField_congr h (by omega : 64 + 32 ≤ 109),
    bitField_congr h (by omega : 32 + 32 ≤ 109), bitField_congr h (by omega : 1 + 31 ≤ 109),
    bitField_congr h (by omega : 0 + 1 ≤ 109)]

theorem decodeInvseg_congr (h : w.toNat % 2 ^ 13 = w'.toNat % 2 ^ 13) :
    decodeInvseg w = decodeInvseg w' := by
  unfold decodeInvseg
  rw [bitField_congr h (by omega : 0 + 13 ≤ 13)]

theorem decodeInvpage_congr (h : w.toNat % 2 ^ 32 = w'.toNat % 2 ^ 32) :
    decodeInvpage w = decodeInvpage w' := by
  unfold decodeInvpage
  rw [bitField_congr h (by omega : 0 + 32 ≤ 32)]

theorem decodeSetmode_congr (h : w.toNat % 2 ^ 2 = w'.toNat % 2 ^ 2) :
    decodeSetmode w = decodeSetmode w' := by
  unfold decodeSetmode
  rw [bitField_congr h (by omega : 0 + 1 ≤ 2), bitField_congr h (by omega : 1 + 1 ≤ 2)]

end

/-- Settles O8: each decoder reads fields among its format's operand bits alone, and a reserved opcode's word is refused by its opcode. -/
theorem reservedCommandBitsAreIgnored : Obligations.ReservedCommandBitsAreIgnored := by
  intro w w' rest hop hbits
  change decodeWord w rest = decodeWord w' rest
  unfold decodeWord
  rw [← hop]
  unfold operandBits at hbits
  split_ifs at hbits ⊢
  · rw [decodeRead_congr hbits]
  · exact decodeWrite_congr hbits rest
  · rw [decodeRegseg_congr hbits]
  · rw [decodeInvseg_congr hbits]
  · rw [decodeInvpage_congr hbits]
  · rfl
  · rw [decodeSetmode_congr hbits]
  · rfl

/-! ## Command words as numbers (R91, R97 to R104) -/

/-- A placed operand is worth its value times the power of two of its place. -/
theorem toNat_placeField {n lo : Nat} (x : BitVec n) (h : lo + n ≤ 128) :
    (placeField x lo).toNat = x.toNat * 2 ^ lo := by
  have hx : x.toNat * 2 ^ lo < 2 ^ 128 := calc
    x.toNat * 2 ^ lo < 2 ^ n * 2 ^ lo := Nat.mul_lt_mul_of_pos_right x.isLt (Nat.two_pow_pos lo)
    _ = 2 ^ (lo + n) := by rw [← Nat.pow_add, Nat.add_comm]
    _ ≤ 2 ^ 128 := Nat.pow_le_pow_right two_pos h
  have hwidth : x.toNat < 2 ^ 128 :=
    lt_of_lt_of_le x.isLt (Nat.pow_le_pow_right two_pos (by omega))
  rw [placeField, BitVec.toNat_shiftLeft, BitVec.toNat_setWidth, Nat.mod_eq_of_lt hwidth,
    Nat.shiftLeft_eq, Nat.mod_eq_of_lt hx]

/-- An operand placed at bit 0 is worth its value. -/
theorem toNat_placeField_zero {n : Nat} (x : BitVec n) (h : n ≤ 128) :
    (placeField x 0).toNat = x.toNat := by
  rw [toNat_placeField x (by omega), Nat.pow_zero, Nat.mul_one]

/-- Operands below a placed one add to its worth. -/
theorem toNat_placeField_or {n lo : Nat} (x : BitVec n) {y : CmdWord} (h : lo + n ≤ 128)
    (hy : y.toNat < 2 ^ lo) : (placeField x lo ||| y).toNat = x.toNat * 2 ^ lo + y.toNat := by
  rw [BitVec.toNat_or, toNat_placeField x h, Nat.mul_comm, Nat.two_pow_add_eq_or_of_lt hy]

theorem toNat_flagBit (b : Bool) : (flagBit b).toNat = b.toNat := by
  cases b <;> rfl

theorem toNat_logicalAddr (la : LogicalAddr) : la.toNat = (selOf la).toNat * 2 ^ 35 +
    (la.extractLsb' 32 3).toNat * 2 ^ 32 + (offOf la).toNat := by
  have := la.isLt
  simp only [selOf, offOf, BitVec.extractLsb'_toNat, Nat.shiftRight_eq_div_pow]
  omega

/-- The opcode stands above every operand (R96). -/
theorem toNat_encodeWord (i : Instr) :
    (encodeWord i).toNat = i.opcode.toNat * 2 ^ 124 + (operandField i).toNat :=
  toNat_placeField_or i.opcode (le_refl _)
    (Nat.lt_pow_two_of_testBit _ fun k hk => operandField_above i k (by omega))

/-- Formats A and W, whose two operands stand alike (R97, R98). -/
theorem toNat_addressed {n : Nat} (a : BitVec n) (len : Word32) (h : 32 + n ≤ 128) :
    (placeField a 32 ||| placeField len 0).toNat = a.toNat * 2 ^ 32 + len.toNat := by
  have hlen : (placeField len 0).toNat = len.toNat := 
    toNat_placeField_zero len (by omega)
  rw [toNat_placeField_or a h (hlen ▸ len.isLt), hlen]

/-- The packed descriptor as a number (R34, R99). -/
theorem toNat_packDescriptor (base diskBase : Word32) (limit : BitVec 31) (valid : Bool) :
    (packDescriptor base diskBase limit valid).toNat =
      base.toNat * 2 ^ 64 + diskBase.toNat * 2 ^ 32 + limit.toNat * 2 + valid.toNat := by
  have hdisk := diskBase.isLt
  have hlimit := limit.isLt
  have hvalid := valid.toNat_lt
  have flag : (placeField (flagBit valid) 0).toNat = valid.toNat := by
    rw [toNat_placeField_zero _ (by omega), toNat_flagBit]
  have limited : (placeField limit 1 ||| placeField (flagBit valid) 0).toNat =
      limit.toNat * 2 + valid.toNat := by
    rw [toNat_placeField_or limit (by omega) (by omega), flag, Nat.pow_one]
  have disk : (placeField diskBase 32 ||| (placeField limit 1 |||
      placeField (flagBit valid) 0)).toNat =
      diskBase.toNat * 2 ^ 32 + (limit.toNat * 2 + valid.toNat) := by
    rw [toNat_placeField_or diskBase (by omega) (by omega), limited]
  rw [packDescriptor, BitVec.or_assoc, BitVec.or_assoc,
    toNat_placeField_or base (by omega) (by omega), disk]
  omega

theorem toNat_operandField_regseg (index : BitVec 13) (base diskBase : Word32)
    (limit : BitVec 31) (valid : Bool) :
    (operandField (.regseg index base diskBase limit valid)).toNat =
      index.toNat * 2 ^ 96 + (packDescriptor base diskBase limit valid).toNat := by
  have packed := toNat_packDescriptor base diskBase limit valid
  have hbase := base.isLt
  have hdisk := diskBase.isLt
  have hlimit := limit.isLt
  have hvalid := valid.toNat_lt
  exact toNat_placeField_or index (by omega) (by omega)

theorem toNat_operandField_setmode (seg pag : Bool) :
    (operandField (.setmode seg pag)).toNat = pag.toNat * 2 + seg.toNat := by
  have hseg := seg.toNat_lt
  have flag : (placeField (flagBit seg) 0).toNat = seg.toNat := by
    rw [toNat_placeField_zero _ (by omega), toNat_flagBit]
  rw [operandField, toNat_placeField_or _ (by omega) (by omega), flag, toNat_flagBit, Nat.pow_one]

/-- Settles O9: the opcode above the operands, and each operand at its place in its format. -/
theorem encodedWordsAreTheFormats : Obligations.EncodedWordsAreTheFormats := by
  refine ⟨fun la len => ?read, fun pa len data => ?write,
    fun index base diskBase limit valid => ?regseg, fun index => ?invseg, fun vpn => ?invpage,
    by rfl, fun seg pag => ?setmode, toNat_logicalAddr⟩
  case read =>
    rw [toNat_encodeWord, operandField, toNat_addressed la len (by omega)]
    rw [show (Instr.read la len).opcode.toNat = 0 from rfl, Nat.zero_mul, Nat.zero_add]
  case write =>
    rw [toNat_encodeWord, operandField, toNat_addressed pa len (by omega), ← Nat.add_assoc]
    rfl
  case regseg =>
    rw [toNat_encodeWord, toNat_operandField_regseg, toNat_packDescriptor]
    simp only [← Nat.add_assoc]
    rfl
  case invseg =>
    rw [toNat_encodeWord, operandField, toNat_placeField_zero index (by omega)]
    rfl
  case invpage =>
    rw [toNat_encodeWord, operandField, toNat_placeField_zero vpn (by omega)]
    rfl
  case setmode =>
    rw [toNat_encodeWord, toNat_operandField_setmode, ← Nat.add_assoc]
    rfl

/-- Settles O10: the vectors' words, decoded. -/
theorem sampleWordsDecode : Obligations.SampleWordsDecode := by
  unfold Obligations.SampleWordsDecode
  decide

end Sys2Proof

namespace Sys2Proof.Machine

/-! ## A reserved opcode (R105) -/

/-- Settles O13: the step answers without doing any work. -/
theorem reservedOpcodeAnswersBadRequest : Obligations.ReservedOpcodeAnswersBadRequest := by
  refine ⟨rfl, fun s w rest hidle hf hin hop => ?_⟩
  rw [step_of_reserved hidle hin hop]
  exact ⟨_, runCommand_work (opOf w) id _ { s with input := rest } hf, rfl, rfl⟩

/-! ## The parts of an address a READ does not read (R92, R93, R123) -/

/-- The latches `REQ_LA` and `SEL` at any values, which no rule of real mode reads (R123). -/
def State.withSelector (s : State) (la : LogicalAddr) (sel : BitVec 13) : State :=
  { s with seq := { s.seq with reqLA := la, sel := sel } }

/-- A real-mode READ carries `REQ_LA` and `SEL` along and looks at neither (R123). -/
theorem forgetSelector_readReal (off len : Word32) (s entry entry' : State)
    (la la' : LogicalAddr) (sel sel' : BitVec 13) :
    forgetSelector ((readReal off len (s.withSelector la sel)).finish entry) =
      forgetSelector ((readReal off len (s.withSelector la' sel')).finish entry') := by
  have cfg (a : LogicalAddr) (x : BitVec 13) : (s.withSelector a x).cfg = s.cfg := rfl
  unfold readReal
  rw [cfg, cfg]
  by_cases hout : s.cfg.diskSize < off.toNat + len.toNat
  · rw [if_pos hout, if_pos hout]
    rfl
  rw [if_neg hout, if_neg hout]
  by_cases hlen : len = 0
  · simp only [if_pos hlen]
    rfl
  · simp only [if_neg hlen, diskRead, State.enter_cfg, State.physical_cfg, State.linear_cfg, cfg,
      if_neg hout]
    rfl

theorem State.latchRead_eq (s : State) (la : LogicalAddr) (len : Word32) :
    s.latchRead la len = (s.latchLen len).withSelector (withoutReserved la) s.seq.sel := rfl

theorem State.latchSelector_withSelector (s : State) (la : LogicalAddr) (a : LogicalAddr)
    (sel : BitVec 13) : (s.withSelector a sel).latchSelector la =
      ({ s with seq := { s.seq with off := offOf la } }).withSelector a (selOf la) := rfl

theorem forgetSelector_respond (s : State) (la la' : LogicalAddr) (sel sel' : BitVec 13)
    (k : Status) : forgetSelector (.next ((s.withSelector la sel).respond k)) =
      forgetSelector (.next ((s.withSelector la' sel').respond k)) := rfl

/-- A real-mode READ is `readReal` between its latches and its answer (R122, R123). -/
theorem exec_read_real {s : State} (hf : s.fatal = false) (hmode : s.mode.seg = false)
    (la : LogicalAddr) (len : Word32) : exec (.read la len) s =
      (readReal (offOf la) len (((s.accept 0).latchRead la len).latchSelector la)).finish
        ((s.accept 0).latchRead la len) := by
  have real : ¬ (((s.accept 0).latchRead la len).latchSelector la).mode.seg = true := by
    simp [hmode]
  exact (exec_of_not_fatal _ hf).trans (congrArg (Res.finish _) (if_neg real))

/-- Settles O11: the latches hold SEL and OFF alone, and real mode reads OFF alone. -/
theorem reservedAddressBitsAreIgnored : Obligations.ReservedAddressBitsAreIgnored := by
  refine ⟨fun s la la' len hsel hoff => ?same, fun s la la' len hmode hoff => ?real⟩
  case same =>
    have latched : withoutReserved la = withoutReserved la' :=
      (withoutReserved_eq la la').2 ⟨hsel, hoff⟩
    have latch : Instr.latch (.read la len) = Instr.latch (.read la' len) := by
      simp only [Instr.latch, State.latchRead, latched]
    have work : Instr.work (.read la len) = Instr.work (.read la' len) := by
      funext u
      have selected : u.latchSelector la = u.latchSelector la' := by
        rw [State.latchSelector, hsel, hoff, State.latchSelector]
      simp only [Instr.work, readWork, selected, hsel, hoff]
    rw [exec_eq_runCommand, exec_eq_runCommand, latch, work]
    rfl
  case real =>
    by_cases hf : s.fatal = true
    · rw [exec_of_fatal _ hf, exec_of_fatal _ hf]
      exact forgetSelector_respond ((s.accept 0).latchLen len) _ _ _ _ _
    · have hclear : s.fatal = false := by simpa using hf
      rw [exec_read_real hclear hmode, exec_read_real hclear hmode, State.latchRead_eq,
        State.latchRead_eq, State.latchSelector_withSelector, State.latchSelector_withSelector, hoff]
      exact forgetSelector_readReal _ _ _ _ _ _ _ _ _

/-! ## INVSEG and INVPAGE (R110, R218, R221) -/

/-- The segment table as INVSEG leaves it (R26, R218). -/
def segmentTableAfterInvseg (index : Nat) (s : State) : Sparse Descriptor :=
  if s.fatal = true ∨ s.cfg.numSegments ≤ index ∨ (s.seg index).populated = false then s.st
  else (invalidate index s).st

/-- INVSEG writes the segment table alone (R218). -/
theorem exec_invseg_next {index : BitVec 13} {s t : State} (h : exec (.invseg index) s = .next t) :
    t = { s with st := segmentTableAfterInvseg index.toNat s, seq := t.seq } := by
  unfold segmentTableAfterInvseg
  by_cases hf : s.fatal = true
  · obtain rfl := Host.Outcome.next.inj ((exec_of_fatal _ hf).symm.trans h)
    rw [if_pos (.inl hf)]
    rfl
  · rw [exec_of_not_fatal _ (by simpa using hf)] at h
    by_cases hrefused : s.cfg.numSegments ≤ index.toNat ∨ (s.seg index.toNat).populated = false
    · have work : Instr.work (.invseg index) (Instr.entry (.invseg index) s) =
          .raised .segmentFault (Instr.entry (.invseg index) s) := if_pos hrefused
      rw [work] at h
      obtain rfl := Host.Outcome.next.inj h
      rw [if_pos (.inr hrefused)]
      rfl
    · have work : Instr.work (.invseg index) (Instr.entry (.invseg index) s) =
          .ok () (invalidate index.toNat (Instr.entry (.invseg index) s)) := if_neg hrefused
      rw [work] at h
      obtain rfl := Host.Outcome.next.inj h
      rw [if_neg (not_or.2 ⟨hf, hrefused⟩)]
      rfl

/-- The two page tables as INVPAGE leaves them (R26, R221). -/
def pageTablesAfterInvpage (v : Nat) (s : State) : Sparse PageEntry × Sparse FrameEntry :=
  if s.fatal = true ∨ s.cfg.numVPages ≤ v ∨ (s.page v).resident = false then (s.pt, s.rpt)
  else ((dropPage v s).pt, (dropPage v s).rpt)

/-- INVPAGE writes the two page tables alone (R221). -/
theorem exec_invpage_next {vpn : Word32} {s t : State} (h : exec (.invpage vpn) s = .next t) :
    t = { s with
      pt := (pageTablesAfterInvpage vpn.toNat s).1
      rpt := (pageTablesAfterInvpage vpn.toNat s).2
      seq := t.seq } := by
  unfold pageTablesAfterInvpage
  by_cases hf : s.fatal = true
  · obtain rfl := Host.Outcome.next.inj ((exec_of_fatal _ hf).symm.trans h)
    rw [if_pos (.inl hf)]
    rfl
  rw [exec_of_not_fatal _ (by simpa using hf)] at h
  by_cases hout : s.cfg.numVPages ≤ vpn.toNat
  · have work : Instr.work (.invpage vpn) (Instr.entry (.invpage vpn) s) =
        .raised .invalidAddress (Instr.entry (.invpage vpn) s) := if_pos hout
    rw [work] at h
    obtain rfl := Host.Outcome.next.inj h
    rw [if_pos (.inr (.inl hout))]
    rfl
  by_cases hres : (s.page vpn.toNat).resident = true
  · have work : Instr.work (.invpage vpn) (Instr.entry (.invpage vpn) s) =
        .ok () (dropPage vpn.toNat (Instr.entry (.invpage vpn) s)) :=
      (if_neg hout).trans (if_pos hres)
    rw [work] at h
    obtain rfl := Host.Outcome.next.inj h
    rw [if_neg (by simp [hf, hout, hres])]
    rfl
  · have work : Instr.work (.invpage vpn) (Instr.entry (.invpage vpn) s) =
        .ok () (Instr.entry (.invpage vpn) s) := (if_neg hout).trans (if_neg hres)
    rw [work] at h
    obtain rfl := Host.Outcome.next.inj h
    rw [if_pos (by simp [hres])]
    rfl

/-- Settles O50: what each of the two commands writes, it computes from fields the other leaves alone. -/
theorem invsegAndInvpageCommute : Obligations.InvsegAndInvpageCommute := by
  intro s a b c d index vpn ha hb hc hd
  have seg : segmentTableAfterInvseg index.toNat c = segmentTableAfterInvseg index.toNat s := by
    rw [exec_invpage_next hc]
    rfl
  have page : pageTablesAfterInvpage vpn.toNat a = pageTablesAfterInvpage vpn.toNat s := by
    rw [exec_invseg_next ha]
    rfl
  calc d = { c with st := segmentTableAfterInvseg index.toNat s, seq := d.seq } := by
        rw [← seg]
        exact exec_invseg_next hd
    _ = { a with
          pt := (pageTablesAfterInvpage vpn.toNat a).1
          rpt := (pageTablesAfterInvpage vpn.toNat a).2
          seq := d.seq } := by
        rw [exec_invpage_next hc, page, exec_invseg_next ha]
    _ = { b with seq := d.seq } := by rw [exec_invpage_next hb]

end Sys2Proof.Machine

namespace Sys2Proof.Machine

/-! ## Where a piece of work completes -/

/-- Where a piece of work completes it does so as `Q` says, and the error it raises is not `OK`, which is none. -/
def Res.Ensures {α : Type} (Q : α → State → Prop) : Res α → Prop
  | .ok a t => Q a t
  | .raised k _ => k ≠ .ok
  | .exhausted => True
  | .stop _ => True

/-- A piece of work writes no register of the sequencer where it completes. -/
abbrev Res.KeepsSeq {α : Type} (s : State) (r : Res α) : Prop :=
  r.Ensures fun _ t => t.seq = s.seq

section
variable {α β : Type} {s t : State} {r : Res α} {P Q : α → State → Prop}

theorem Res.Ensures.bind {Q : β → State → Prop} {g : α → State → Res β} (hr : r.Ensures P)
    (hg : ∀ a u, P a u → (g a u).Ensures Q) : (r.bind g).Ensures Q := by
  cases r with
  | ok a u => exact hg a u hr
  | raised _ _ => exact hr
  | exhausted => trivial
  | stop _ => trivial

theorem Res.Ensures.mono (hr : r.Ensures P) (h : ∀ a t, P a t → Q a t) : r.Ensures Q := by
  cases r with
  | ok a t => exact h a t hr
  | raised _ _ => exact hr
  | exhausted => trivial
  | stop _ => trivial

theorem Res.KeepsSeq.after (hst : t.seq = s.seq) (hr : r.KeepsSeq t) : r.KeepsSeq s :=
  hr.mono fun _ _ h => h.trans hst

theorem Res.KeepsSeq.bind {g : α → State → Res β} (hr : r.KeepsSeq s)
    (hg : ∀ a u, (g a u).KeepsSeq u) : (r.bind g).KeepsSeq s :=
  Res.Ensures.bind hr fun a u hu => (hg a u).after hu

end

/-! ### Access primitives and stamps -/

theorem memRead_ensures (addr n : Nat) (s : State) :
    (memRead addr n s).Ensures fun v t => v.length = n ∧ t = s := by
  unfold memRead
  split
  · trivial
  · exact ⟨Memory.length_readRange _ _ _, rfl⟩

theorem memRead_keepsSeq (addr n : Nat) (s : State) : (memRead addr n s).KeepsSeq s :=
  (memRead_ensures addr n s).mono fun _ _ ht => congrArg State.seq ht.2

theorem memWrite_keepsSeq (addr : Nat) (v : List Byte) (s : State) :
    (memWrite addr v s).KeepsSeq s := by
  unfold memWrite
  split_ifs
  · trivial
  · rfl
  · rfl

theorem diskRead_ensures (off n : Nat) (s : State) :
    (diskRead off n s).Ensures fun v t => v.length = n ∧ t.seq = s.seq := by
  unfold diskRead
  split
  · trivial
  · exact ⟨Memory.length_readRange _ _ _, rfl⟩

theorem diskRead_keepsSeq (off n : Nat) (s : State) : (diskRead off n s).KeepsSeq s :=
  (diskRead_ensures off n s).mono fun _ _ ht => ht.2

theorem stamp_keepsSeq (s : State) : (stamp s).KeepsSeq s := by
  unfold stamp
  split
  · trivial
  · rfl

theorem stampSegment_keepsSeq (i : Nat) (s : State) : (stampSegment i s).KeepsSeq s :=
  (stamp_keepsSeq s).bind fun _ _ => rfl

theorem stampFrame_keepsSeq (f : Nat) (s : State) : (stampFrame f s).KeepsSeq s :=
  (stamp_keepsSeq s).bind fun _ _ => rfl

/-! ### The segment table -/

theorem slideTo_keepsSeq (i cur : Nat) (s : State) : (slideTo i cur s).KeepsSeq s := by
  unfold slideTo
  dsimp only
  split_ifs
  · rfl
  · exact (memRead_keepsSeq _ _ s).bind fun _ u => (memWrite_keepsSeq _ _ u).bind fun _ _ => rfl
  · rfl

theorem compactFrom_keepsSeq (order : List Nat) (cur : Nat) (s : State) :
    (compactFrom order cur s).KeepsSeq s := by
  induction order generalizing cur s with
  | nil => rfl
  | cons i rest ih => exact (slideTo_keepsSeq i cur s).bind fun _ u => ih _ u

theorem allocate_keepsSeq (size : Nat) (s : State) : (allocate size s).KeepsSeq s := by
  unfold allocate
  split
  · rfl
  have evicted :
      (if size ≤ totalFree s then s else evictUntil size (victimOrder s) s).seq = s.seq := by
    split
    · rfl
    · rw [evictUntil_frame]
  refine Res.KeepsSeq.after evicted ((compactFrom_keepsSeq _ _ _).bind fun _ u => ?_)
  split
  · rfl
  · trivial

theorem allocateChecked_keepsSeq (size : Nat) (s : State) :
    (allocateChecked size s).KeepsSeq s := by
  unfold allocateChecked
  split
  · exact nofun
  · exact allocate_keepsSeq size s

theorem segmentLoad_keepsSeq (i : Nat) (s : State) : (segmentLoad i s).KeepsSeq s :=
  (allocateChecked_keepsSeq _ s).bind fun _ u => (diskRead_keepsSeq _ _ u).bind fun _ w =>
    (memWrite_keepsSeq _ _ w).bind fun _ _ => rfl

/-! ### The page table -/

theorem evictPage_keepsSeq (f : Nat) (s : State) : (evictPage f s).KeepsSeq s := by
  unfold evictPage raiseFatal
  dsimp only
  split
  · exact nofun
  · rfl

theorem chooseFrame_keepsSeq (s : State) : (chooseFrame s).KeepsSeq s := by
  unfold chooseFrame
  split
  · rfl
  · exact (evictPage_keepsSeq _ s).bind fun _ _ => rfl

theorem pageLookup_keepsSeq (v : Nat) (s : State) : (pageLookup v s).KeepsSeq s := by
  unfold pageLookup raiseFatal
  dsimp only
  split_ifs
  · exact nofun
  · exact nofun
  · rfl
  · exact nofun
  · rfl

theorem pageFault_keepsSeq (v : Nat) (s : State) : (pageFault v s).KeepsSeq s :=
  (chooseFrame_keepsSeq s).bind fun _ u => (diskRead_keepsSeq _ _ u).bind fun _ w =>
    (memWrite_keepsSeq _ _ w).bind fun _ _ => rfl

/-- `EnsurePage` writes the sequencer's registers only to visit PAGE_FAULT, in a chunk that takes a page fault (R121). -/
theorem ensurePage_ensures_seq (visit : Bool) (v : Nat) (s : State) :
    (ensurePage visit v s).Ensures fun _ t =>
      t.seq = s.seq ∨ visit = true ∧ t.seq = (s.enter .pageFault).seq := by
  have stamped (f : Nat) (u : State) :
      ((stampFrame f u).bind fun _ w => Res.ok f w).KeepsSeq u :=
    (stampFrame_keepsSeq f u).bind fun _ _ => rfl
  refine Res.Ensures.bind (pageLookup_keepsSeq v s) fun found u hu => ?_
  cases found with
  | some f => exact (stamped f u).mono fun _ _ ht => .inl (ht.trans hu)
  | none =>
    cases visit with
    | false =>
      exact ((pageFault_keepsSeq v u).bind stamped).mono fun _ _ ht => .inl (ht.trans hu)
    | true =>
      exact ((pageFault_keepsSeq v (u.enter .pageFault)).bind stamped).mono
        fun _ _ ht => .inr ⟨rfl, ht.trans (by simp only [State.enter, hu])⟩

theorem populatePages_keepsSeq (v n : Nat) (s : State) : (populatePages v n s).KeepsSeq s := by
  unfold populatePages
  split
  · trivial
  · rfl

/-- The pages of a registration do not visit PAGE_FAULT (R121, R168). -/
theorem loadPages_keepsSeq (n v : Nat) (s : State) : (loadPages n v s).KeepsSeq s := by
  induction n generalizing v s with
  | zero => rfl
  | succ n ih =>
    have loaded : (ensurePage false v s).KeepsSeq s :=
      (ensurePage_ensures_seq false v s).mono fun _ _ ht => by simpa using ht
    exact loaded.bind fun _ u => ih _ u

theorem segmentRegister_keepsSeq (i : Nat) (s : State) : (segmentRegister i s).KeepsSeq s := by
  refine (allocateChecked_keepsSeq _ s).bind fun a u => ?_
  have placed : (u.setSeg i { u.seg i with base := toReg32 a }).seq = u.seq := rfl
  exact Res.KeepsSeq.after placed ((populatePages_keepsSeq _ _ _).bind fun _ w =>
    (loadPages_keepsSeq _ _ w).bind fun _ _ => rfl)

/-! ## The data of a READ (R107, R132) -/

/-- State `t` is ready to answer the command latched in `s` with `n` bytes of data. -/
def State.Returns (s : State) (n : Nat) (t : State) : Prop :=
  t.seq.reqOp = s.seq.reqOp ∧ t.seq.result.length = n

theorem segmentChecks_keepsSeq (sel : Nat) (off len : Word32) (s : State) :
    (segmentChecks sel off len s).KeepsSeq s := by
  unfold segmentChecks
  split_ifs
  · exact nofun
  · exact nofun
  · exact nofun
  · exact nofun
  · rfl

/-- The segment phase writes the sequencer's registers only to visit SEGMENT_FAULT (R121, R126). -/
theorem segmentPhase_ensures_seq (sel : Nat) (s : State) : (segmentPhase sel s).Ensures
    fun _ t => t.seq = if (s.seg sel).valid then s.seq else (s.enter .segmentFault).seq := by
  unfold segmentPhase segmentFault
  split
  · exact stampSegment_keepsSeq sel s
  · have faulted : (if (s.enter .segmentFault).mode.pag = true then
        segmentRegister sel (s.enter .segmentFault)
        else segmentLoad sel (s.enter .segmentFault)).KeepsSeq (s.enter .segmentFault) := by
      split
      · exact segmentRegister_keepsSeq sel _
      · exact segmentLoad_keepsSeq sel _
    exact faulted.bind fun _ u => stampSegment_keepsSeq sel u

theorem readReal_returns (off len : Word32) (s : State) :
    (readReal off len s).Ensures fun _ t => s.Returns len.toNat t := by
  unfold readReal
  split
  · exact nofun
  dsimp only
  split
  next hlen =>
    subst hlen
    exact ⟨rfl, rfl⟩
  next =>
    exact (diskRead_ensures _ _ _).bind fun bytes u hu => ⟨(congrArg Seq.reqOp hu.2 :), hu.1⟩

theorem readSegment_returns (sel : Nat) (off len : Word32) (s : State) :
    (readSegment sel off len s).Ensures fun _ t => s.Returns len.toNat t :=
  (memRead_ensures _ _ _).bind fun bytes u hu => ⟨by rw [hu.2]; rfl, hu.1⟩

/-- A chunk is of one byte or more, of no more than remain to be read, and inside one page (R130). -/
theorem chunkSize_bounds (c : Config) (lin : Nat) {remain : Nat} (h : 0 < remain) :
    1 ≤ chunkSize c lin remain ∧ chunkSize c lin remain ≤ remain ∧
      lin % c.pageSize + chunkSize c lin remain ≤ c.pageSize := by
  have hmod : lin % c.pageSize < c.pageSize := Nat.mod_lt _ c.pageSize_pos
  unfold chunkSize poffOf
  omega

/-- A chunk appends its bytes to what the chunks before it read (R130). -/
theorem readChunk_returns (lin n : Nat) (s : State) : (readChunk lin n s).Ensures
    fun _ t => s.Returns (s.seq.result.length + n) t := by
  rw [readChunk_eq]
  refine (ensurePage_ensures_seq true _ _).bind fun f u hu => ?_
  have kept : u.seq.reqOp = s.seq.reqOp ∧ u.seq.result = s.seq.result := by
    rcases hu with hu | ⟨-, hu⟩
    · rw [hu]; exact ⟨rfl, rfl⟩
    · rw [hu]; exact ⟨rfl, rfl⟩
  obtain ⟨hop, hresult⟩ := kept
  refine (memRead_ensures _ _ _).bind fun bytes w hw => ?_
  obtain ⟨hlen, rfl⟩ := hw
  refine ⟨hop, ?_⟩
  rw [State.setResult_result, List.length_append, hlen]
  exact congrArg (List.length · + n) hresult

theorem readChunks_returns {turns lin remain : Nat} (hturns : remain ≤ turns) (s : State) :
    (readChunks turns lin remain s).Ensures
      fun _ t => s.Returns (s.seq.result.length + remain) t := by
  induction turns generalizing lin remain s with
  | zero =>
    obtain rfl : remain = 0 := by omega
    exact ⟨rfl, rfl⟩
  | succ turns ih =>
    unfold readChunks
    split
    next hzero =>
      subst hzero
      exact ⟨rfl, rfl⟩
    next hne =>
      obtain ⟨hpos, hle, -⟩ := chunkSize_bounds s.cfg lin (Nat.pos_of_ne_zero hne)
      dsimp only
      generalize chunkSize s.cfg lin remain = k at hpos hle ⊢
      refine (readChunk_returns lin k s).bind fun _ u hu => ?_
      obtain ⟨hop, hresult⟩ := hu
      refine (ih (by omega) (u.advance _ _)).mono fun _ t ht => ?_
      obtain ⟨hop', hresult'⟩ := ht
      refine ⟨hop'.trans hop, hresult'.trans ?_⟩
      change u.seq.result.length + (remain - k) = s.seq.result.length + remain
      omega

theorem readTranslated_returns (sel : Nat) (off len : Word32) (s : State) :
    (readTranslated sel off len s).Ensures fun _ t => s.Returns len.toNat t := by
  unfold readTranslated
  refine Res.Ensures.bind (segmentChecks_keepsSeq sel off len _) fun _ u hu =>
    (segmentPhase_ensures_seq sel u).bind fun _ w hw => ?_
  have latched : w.seq.reqOp = s.seq.reqOp := by
    rw [hw]
    split
    · rw [hu]; rfl
    · exact (congrArg Seq.reqOp hu :)
  split
  · refine (readChunks_returns (le_refl _) _).mono fun _ t ht => ?_
    obtain ⟨hop, hresult⟩ := ht
    exact ⟨hop.trans latched, hresult.trans (Nat.zero_add _)⟩
  · exact (readSegment_returns sel off len w).mono fun _ t ht => ⟨ht.1.trans latched, ht.2⟩

theorem readWork_returns (la : LogicalAddr) (len : Word32) (s : State) :
    (readWork la len s).Ensures fun _ t => s.Returns len.toNat t := by
  unfold readWork
  dsimp only
  split
  · exact readTranslated_returns _ _ _ (s.latchSelector la)
  · exact readReal_returns _ _ (s.latchSelector la)

/-- A READ that answers OK has completed, and its registers hold its opcode and `LEN` bytes (R107, R132). -/
theorem exec_read_ok {la : LogicalAddr} {len : Word32} {s t : State}
    (ht : exec (.read la len) s = .next t) (hok : t.seq.status = .ok) :
    t.seq.reqOp = 0 ∧ t.seq.result.length = len.toNat := by
  by_cases hf : s.fatal = true
  · obtain rfl := Host.Outcome.next.inj ((exec_of_fatal _ hf).symm.trans ht)
    exact absurd hok nofun
  rw [exec_of_not_fatal _ (by simpa using hf)] at ht
  have returns := readWork_returns la len (Instr.entry (.read la len) s)
  rcases (Res.finish_eq_next _ _ t).1 ht with ⟨u, hr, rfl⟩ | ⟨k, u, hr, rfl⟩ | ⟨-, rfl⟩
  · rw [show readWork la len _ = _ from hr] at returns
    exact returns
  · rw [show readWork la len _ = _ from hr] at returns
    exact absurd hok returns
  · exact absurd hok nofun

theorem response_data_of_read {t : State} (hok : t.seq.status = .ok) (hop : t.seq.reqOp = 0) :
    t.response.data = t.seq.result := if_pos ⟨hok, hop⟩

/-- A command answers under the opcode it latched where its work keeps that latch (R21, R132). -/
theorem finish_reqOp {entry t : State} {r : Res Unit}
    (hr : r.Leads (fun s t => t.seq.reqOp = s.seq.reqOp) entry) (ht : r.finish entry = .next t) :
    t.seq.reqOp = entry.seq.reqOp := by
  rcases (Res.finish_eq_next _ _ t).1 ht with ⟨u, rfl, rfl⟩ | ⟨k, u, rfl, rfl⟩ | ⟨-, rfl⟩
  · exact hr
  · exact hr
  · rfl

theorem entry_reqOp (i : Instr) (s : State) : (i.entry s).seq.reqOp = i.opcode := by
  cases i <;> rfl

theorem writeWork_reqOp (pa len : Word32) (data : List Byte) (s : State) :
    (writeWork pa len data s).Leads (fun s t => t.seq.reqOp = s.seq.reqOp) s := by
  have written := memWrite_keepsSeq pa.toNat data (s.enter .access)
  unfold writeWork
  split
  · rfl
  · cases hw : memWrite pa.toNat data (s.enter .access) with
    | ok _ t =>
      rw [hw] at written
      have kept : t.seq = (s.enter .access).seq := written
      exact (congrArg Seq.reqOp kept :)
    | raised k t => exact absurd hw (memWrite_ne_raised _ _ _ _ _)
    | exhausted => trivial
    | stop _ => trivial

/-- A command other than READ answers under its own opcode (R21, R107). -/
theorem exec_reqOp {i : Instr} (hi : ∀ la len, i ≠ .read la len) {s t : State}
    (ht : exec i s = .next t) : t.seq.reqOp = i.opcode := by
  rw [← entry_reqOp i s]
  by_cases hf : s.fatal = true
  · obtain rfl := Host.Outcome.next.inj ((exec_of_fatal i hf).symm.trans ht)
    rfl
  rw [exec_of_not_fatal i (by simpa using hf)] at ht
  refine finish_reqOp ?_ ht
  obtain ⟨la, len, rfl⟩ | ⟨pa, len, data, rfl⟩ | tables := read_or_write_or_writesTables i
  · exact absurd rfl (hi la len)
  · exact writeWork_reqOp pa len data _
  · exact (tables (i.entry s)).leads fun u hu => by rw [hu]

/-- Settles O19: the registers a response is read from hold the command's opcode, and after a READ that ends with OK its bytes. -/
theorem onlySuccessfulReadsReturnData : Obligations.OnlySuccessfulReadsReturnData := by
  refine ⟨fun i s t ht hdata => ?_, fun la len s t ht hok => ?_⟩
  · have answered : t.seq.status = .ok ∧ t.seq.reqOp = 0 := by
      by_contra hnot
      exact hdata (if_neg hnot)
    obtain ⟨hok, hop⟩ := answered
    refine ⟨hok, ?_⟩
    by_contra hread
    simp only [not_exists] at hread
    rw [exec_reqOp hread ht] at hop
    cases i with
    | read la len => exact hread la len rfl
    | write pa len data => nomatch hop
    | regseg index base diskBase limit valid => nomatch hop
    | invseg index => nomatch hop
    | invpage vpn => nomatch hop
    | clear => nomatch hop
    | setmode seg pag => nomatch hop
  · obtain ⟨hop, hlen⟩ := exec_read_ok ht hok
    rwa [response_data_of_read hok hop]

end Sys2Proof.Machine

namespace Sys2Proof.Machine

/-! ## A paged READ of resident pages (R130, R131, R192) -/

/-- The byte at linear address `a`, as the frame of its page holds it (R94, R95). -/
def State.residentByte (s : State) (a : Nat) : Byte :=
  s.byte ((s.page (a / s.cfg.pageSize)).frame * s.cfg.pageSize + a % s.cfg.pageSize)

/-- State `t` has read the `n` bytes from linear address `lin` on out of the frames of `s`, stamping those frames and nothing else (R95, R199). -/
structure State.ReadsFrames (s : State) (lin n : Nat) (t : State) : Prop where
  frame : t = { s with seq := t.seq, clock := t.clock, rpt := t.rpt }
  stamped : ∀ f, t.frame f = { s.frame f with ts := (t.frame f).ts }
  kept : ∀ f, (∀ k < n, (s.page ((lin + k) / s.cfg.pageSize)).frame ≠ f) → t.frame f = s.frame f
  result : t.seq.result = s.seq.result ++ (List.range' lin n).map s.residentByte

section
variable {s t u : State}

theorem State.ReadsFrames.none (lin : Nat) : s.ReadsFrames lin 0 s :=
  ⟨rfl, fun _ => rfl, fun _ _ => rfl, by simp⟩

theorem State.ReadsFrames.trans {lin m n : Nat} (h : s.ReadsFrames lin m t)
    (h' : t.ReadsFrames (lin + m) n u) : s.ReadsFrames lin (m + n) u := by
  have page (v : Nat) : t.page v = s.page v := by rw [h.frame]; rfl
  have cfg : t.cfg = s.cfg := by rw [h.frame]
  have byte : t.residentByte = s.residentByte := by
    funext a
    rw [State.residentByte, page, cfg, h.frame]
    rfl
  refine ⟨by rw [h'.frame, h.frame], fun f => ?_, fun f hf => ?_, ?_⟩
  · rw [h'.stamped f, h.stamped f]
  · have later : u.frame f = t.frame f := h'.kept f fun k hk => by
      rw [page, cfg, Nat.add_assoc]
      exact hf (m + k) (by omega)
    rw [later]
    exact h.kept f fun k hk => hf k (by omega)
  · rw [h'.result, h.result, byte, List.append_assoc, ← List.map_append, List.range'_append_1]

/-- From an empty `RESULT`, byte `k` of the answer is the resident byte `k` addresses on (R130). -/
theorem State.ReadsFrames.getElem?_result {lin n k : Nat} (h : s.ReadsFrames lin n t)
    (hempty : s.seq.result = []) (hk : k < n) :
    t.seq.result[k]? = some (s.residentByte (lin + k)) := by
  rw [h.result, hempty]
  simp [hk]

/-- The addresses from `lin` to the end of its page are of one page, at rising offsets (R94). -/
theorem page_offset_add {size lin k : Nat} (hk : lin % size + k < size) :
    (lin + k) / size = lin / size ∧ (lin + k) % size = lin % size + k := by
  have hdiv := Nat.div_add_mod lin size
  exact (Nat.div_mod_unique (by omega)).2 ⟨by omega, hk⟩

/-- What one access reads in a frame are the resident bytes of the page it holds (R95). -/
theorem readRange_of_page {lin n : Nat} (hn : lin % s.cfg.pageSize + n ≤ s.cfg.pageSize) :
    Memory.readRange s.mem ((s.page (lin / s.cfg.pageSize)).frame * s.cfg.pageSize +
      lin % s.cfg.pageSize) n = (List.range' lin n).map s.residentByte := by
  refine List.ext_getElem (by simp) fun k hk _ => ?_
  rw [Memory.length_readRange] at hk
  obtain ⟨hdiv, hmod⟩ := page_offset_add (size := s.cfg.pageSize) (lin := lin) (k := k) (by omega)
  simp [Memory.readRange, State.residentByte, hdiv, hmod, State.byte, Nat.add_assoc]

/-- `EnsurePage` of a resident page answers its frame and stamps it (R192, R199). -/
theorem ensurePage_of_resident {visit : Bool} {v f : Nat} (hres : (s.page v).resident = true)
    (h : ensurePage visit v s = .ok f t) : f = (s.page v).frame ∧
      t = ({ s with clock := s.clock + 1 }).setFrame f { s.frame f with ts := s.clock + 1 } := by
  obtain ⟨u, ⟨hhit, rfl⟩ | ⟨hmiss, -⟩, hstamp⟩ := (ensurePage_eq_ok _ _ _ _ _).1 h
  · obtain ⟨-, -, -, hf, -⟩ := (pageLookup_eq_some _ _ _ _).1 hhit
    exact ⟨hf, ((stampFrame_eq_ok _ _ _ _).1 hstamp).2⟩
  · obtain ⟨-, -, hnot, -⟩ := (pageLookup_eq_none _ _ _).1 hmiss
    simp [hres] at hnot

/-- A chunk of a resident page reads its frame (R130). -/
theorem readChunk_of_resident {lin n : Nat} (hpos : 0 < n)
    (hn : lin % s.cfg.pageSize + n ≤ s.cfg.pageSize)
    (hres : (s.page (lin / s.cfg.pageSize)).resident = true)
    (h : readChunk lin n s = .ok () t) : s.ReadsFrames lin n t := by
  rw [readChunk_eq] at h
  obtain ⟨f, u, hensure, h⟩ := (Res.bind_eq_ok _ _ _ _).1 h
  obtain ⟨bytes, w, hread, h⟩ := (Res.bind_eq_ok _ _ _ _).1 h
  obtain ⟨-, rfl⟩ := Res.ok.inj h
  obtain ⟨-, rfl, rfl⟩ := (memRead_eq_ok _ _ _ _ _).1 hread
  obtain ⟨(hf : f = (s.page (lin / s.cfg.pageSize)).frame), hu⟩ :=
    ensurePage_of_resident (s := s.lookup lin) hres hensure
  have frame (g : Nat) : u.frame g =
      if g = f then { s.frame f with ts := s.clock + 1 } else s.frame g := by
    rw [hu]
    exact State.setFrame_frame _ _ _ _
  refine ⟨by rw [hu]; rfl, fun g => ?stamped, fun g hg => ?kept, ?result⟩
  case stamped =>
    change u.frame g = { s.frame g with ts := (u.frame g).ts }
    rw [frame]
    split
    next hg => rw [hg]
    next => rfl
  case kept => exact (frame g).trans (if_neg fun heq => hg 0 hpos (hf ▸ heq.symm))
  case result =>
    rw [State.setResult_result, hu, ← readRange_of_page hn, ← hf]
    rfl

theorem readChunks_of_resident {turns lin remain : Nat} (hturns : remain ≤ turns)
    (hres : ∀ k < remain, (s.page ((lin + k) / s.cfg.pageSize)).resident = true)
    (h : readChunks turns lin remain s = .ok () t) : s.ReadsFrames lin remain t := by
  induction turns generalizing lin remain s with
  | zero =>
    obtain rfl : remain = 0 := by omega
    obtain ⟨-, rfl⟩ := Res.ok.inj h
    exact .none lin
  | succ turns ih =>
    unfold readChunks at h
    split at h
    next hzero =>
      subst hzero
      obtain ⟨-, rfl⟩ := Res.ok.inj h
      exact .none lin
    next hne =>
      obtain ⟨hpos, hle, hpage⟩ := chunkSize_bounds s.cfg lin (Nat.pos_of_ne_zero hne)
      dsimp only at h
      generalize chunkSize s.cfg lin remain = m at hpos hle hpage h
      obtain ⟨⟨⟩, u, hchunk, hrest⟩ := (Res.bind_eq_ok _ _ _ _).1 h
      have first := readChunk_of_resident (by omega) hpage (hres 0 (by omega)) hchunk
      have page (v : Nat) : u.page v = s.page v := by rw [first.frame]; rfl
      have cfg : u.cfg = s.cfg := by rw [first.frame]
      have advanced : s.ReadsFrames lin m (u.advance (lin + m) (remain - m)) :=
        ⟨by rw [first.frame]; rfl, first.stamped, first.kept, first.result⟩
      have later := ih (s := u.advance (lin + m) (remain - m)) (by omega) (fun k hk => ?_) hrest
      · have both := advanced.trans later
        rwa [Nat.add_sub_cancel' hle] at both
      · rw [State.advance_page, State.advance_cfg, page, cfg, Nat.add_assoc]
        exact hres (m + k) (by omega)

/-- State `s` once the descriptor `sel` has been stamped (R125). -/
def State.stampedAt (s : State) (sel : Nat) : State :=
  ({ s with clock := s.clock + 1 }).setSeg sel { s.seg sel with ts := s.clock + 1 }

/-- A paged READ of a resident descriptor stamps it and then reads its chunks (R125, R128, R130). -/
theorem readTranslated_of_resident {la : LogicalAddr} {len : Word32} (hp : s.mode.pag = true)
    (hv : (s.seg (selOf la).toNat).valid = true)
    (hres : ∀ k < len.toNat, (s.page (readPage s la k)).resident = true)
    (h : readTranslated (selOf la).toNat (offOf la) len s = .ok () t) :
    ∃ q : Seq, q.result = [] ∧
      ({ s.stampedAt (selOf la).toNat with seq := q }).ReadsFrames (readLin s la 0) len.toNat t := by
  obtain ⟨-, w, hphase, hread⟩ := (readTranslated_eq_ok _ _ _ _ _).1 h
  have stamped : stampSegment (selOf la).toNat (s.enter .segmentLookup) = .ok () w := by
    obtain ⟨u, ⟨-, rfl⟩ | ⟨hnot, -⟩, hstamp⟩ := (segmentPhase_eq_ok _ _ _).1 hphase
    · exact hstamp
    · exact absurd (hnot.symm.trans hv) nofun
  obtain ⟨-, (hw : w = (s.enter .segmentLookup).stampedAt (selOf la).toNat)⟩ :=
    (stampSegment_eq_ok _ _ _ _).1 stamped
  have hdisk : (w.seg (selOf la).toNat).diskBase = (s.seg (selOf la).toNat).diskBase := by
    rw [hw, State.stampedAt, State.setSeg_seg_same]
    rfl
  rw [if_pos (by rw [hw]; exact hp), readPaged, hdisk, hw] at hread
  exact ⟨_, rfl, readChunks_of_resident (le_refl _) hres hread⟩

end

/-- A translated READ is `readTranslated` between its latches and its answer (R122, R124). -/
theorem exec_read_translated {s : State} (hf : s.fatal = false) (hseg : s.mode.seg = true)
    (la : LogicalAddr) (len : Word32) : exec (.read la len) s =
      (readTranslated (selOf la).toNat (offOf la) len
        (((s.accept 0).latchRead la len).latchSelector la)).finish
        ((s.accept 0).latchRead la len) := by
  have translated : (((s.accept 0).latchRead la len).latchSelector la).mode.seg = true := by
    simp [hseg]
  exact (exec_of_not_fatal _ hf).trans (congrArg (Res.finish _) (if_pos translated))

/-- In paged mode the stamps counted for a command are those of a READ that passes its checks (R131). -/
theorem commandStamps_read_of_pag {s : State} {la : LogicalAddr} {len : Word32}
    (hseg : s.mode.seg = true) (hp : s.mode.pag = true) (hread : readable la len s)
    (hroom : (s.seg (selOf la).toNat).valid = true ∨
      s.regionSize (s.seg (selOf la).toNat) ≤ s.cfg.memSize) :
    commandStamps (.read la len) s = pagedStamps s la len := by
  have counted : s.mode.seg = true ∧ readable la len s ∧ ((s.seg (selOf la).toNat).valid = true ∨
      s.regionSize (s.seg (selOf la).toNat) ≤ s.cfg.memSize) := ⟨hseg, hread, hroom⟩
  simp only [commandStamps, if_pos counted, hp, if_true]

/-- Settles O25: the READ completes with the stamps counted for it, and each chunk finds its page's frame by PAGE_LOOKUP. -/
theorem pagedHitReadsTheFrames : Obligations.PagedHitReadsTheFrames := by
  intro s la len hinv hf hseg hp hread hv hres hroom
  have working : (((s.accept 0).latchRead la len).latchSelector la).Working :=
    hinv.working.of_seq rfl ⟨rfl, rfl, rfl⟩
  have stamps := readTranslated_stamps working hseg hread (.inl hv)
  rw [commandStamps_read_of_pag (s := ((s.accept 0).latchRead la len).latchSelector la) hseg hp
    hread (.inl hv)] at stamps
  obtain ⟨⟨⟩, u, hwork, (hclock : u.clock.toNat = s.clock.toNat + pagedStamps s la len), -⟩ :=
    stamps.1 hroom
  have answer : exec (.read la len) s = .next (u.respond .ok) := by
    rw [exec_read_translated hf hseg, hwork]
    rfl
  obtain ⟨hop, hlen⟩ := exec_read_ok answer rfl
  have data : (u.respond .ok).response.data = u.seq.result := response_data_of_read rfl hop
  obtain ⟨q, hempty, hreads⟩ := readTranslated_of_resident
    (s := ((s.accept 0).latchRead la len).latchSelector la) hp hv hres hwork
  have reads : ({ s.stampedAt (selOf la).toNat with seq := q }).ReadsFrames
    (readLin s la 0) len.toNat u := hreads
  have seg (i : Nat) : u.seg i = (s.stampedAt (selOf la).toNat).seg i := by
    rw [reads.frame]
    rfl
  refine ⟨_, ⟨answer, rfl, rfl⟩, ?frame, hclock, ?stamped, fun i hi => ?others, reads.stamped,
    reads.kept, data ▸ hlen, fun k hk => ?bytes⟩
  case frame =>
    rw [reads.frame]
    rfl
  case stamped => exact (seg _).trans (State.setSeg_seg_same _ _ _)
  case others => exact (seg i).trans (State.setSeg_seg_other _ _ _ _ hi)
  case bytes =>
    rw [data]
    exact reads.getElem?_result hempty hk

end Sys2Proof.Machine

/-! PROOFS. How a READ ends in each mode: its checks, its path, the bytes it answers with, and the page visits of a paged READ. -/

namespace Sys2Proof.Machine

/-! ## How a command answers -/

section
variable {i : Instr} {s t : State}

/-- A command answers from where its work completed, from where it raised an error, or, under FATAL or at the end of CLOCK, with InternalConsistency from where it began (R26, R121, R253, 93 U9). -/
theorem exec_next_cases (ht : exec i s = .next t) :
    (s.fatal = false ∧ ∃ u, i.work (i.entry s) = .ok () u ∧ t = u.respond .ok) ∨
      (∃ k u, i.work (i.entry s) = .raised k u ∧ t = u.respond k) ∨
      ∃ b, t = ({ i.entry s with fatal := b }).respond .internalConsistency := by
  by_cases hf : s.fatal = true
  · obtain rfl := Host.Outcome.next.inj ((exec_of_fatal i hf).symm.trans ht)
    exact .inr (.inr ⟨(i.entry s).fatal, rfl⟩)
  have hclear : s.fatal = false := by simpa using hf
  rw [exec_of_not_fatal i hclear] at ht
  rcases (Res.finish_eq_next _ _ t).1 ht with ⟨u, hr, rfl⟩ | ⟨k, u, hr, rfl⟩ | ⟨-, rfl⟩
  · exact .inl ⟨hclear, u, hr, rfl⟩
  · exact .inr (.inl ⟨k, u, hr, rfl⟩)
  · exact .inr (.inr ⟨true, rfl⟩)

/-! ## Every command ends -/

/-- No command touches the port (R27). -/
theorem input_keptByUpdates : KeptByUpdates fun s t : State => t.input = s.input where
  refl _ := rfl
  trans h h' := h'.trans h
  seq _ _ := rfl
  fatal _ := rfl
  clock _ _ := rfl
  st _ _ := rfl
  pt _ _ := rfl
  rpt _ _ := rfl
  mem _ _ := rfl
  emit _ _ := rfl

/-- Under the invariant a well-formed command neither stops nor is refused by the model (R139, R291). -/
theorem exec_completes (h : s.Inv) (hwf : i.wellFormed = true) : ∃ t, exec i s = .next t := by
  by_cases hf : s.fatal = true
  · exact ⟨_, exec_of_fatal i hf⟩
  have answered := exec_answers h (by simpa using hf) i
  cases hexec : exec i s with
  | next t => exact ⟨t, rfl⟩
  | fault f =>
    rw [hexec] at answered
    cases answered with
    | stop hill => simp [hwf] at hill
  | refused e =>
    rw [hexec] at answered
    nomatch answered

/-- Settles O18: a well-formed command stops nowhere, and no update of its work touches the port. -/
theorem everyCommandEnds : Obligations.EveryCommandEnds := by
  intro i s h hwf
  obtain ⟨t, ht⟩ := exec_completes h hwf
  exact ⟨t, ht, (exec_inv h ht).idle, exec_leads input_keptByUpdates (fun _ _ _ => rfl) ht⟩

/-! ## The path of the other commands (R121, R210) -/

theorem entry_path (i : Instr) (s : State) : (i.entry s).seq.path = [.decode] := by
  cases i <;> rfl

/-- A table command runs in DECODE, however it ends. -/
theorem exec_path_of_writesTables (h : ∀ s, (i.work s).WritesTables s)
    (ht : exec i s = .next t) : t.seq.path = [.decode, .done] := by
  have written := h (i.entry s)
  have entered := entry_path i s
  obtain ⟨-, u, hr, rfl⟩ | ⟨k, u, hr, rfl⟩ | ⟨b, rfl⟩ := exec_next_cases ht
  · rw [hr] at written
    have kept : u.seq = (i.entry s).seq := by rw [show u = _ from written]
    rw [State.respond_path, kept, entered]
    rfl
  · rw [hr] at written
    rw [State.respond_path, written.1, entered]
    rfl
  · rw [State.respond_path, entered]
    rfl

/-- A WRITE visits ACCESS exactly where it ends with OK (R210). -/
theorem exec_write_path {pa len : Word32} {data : List Byte}
    (ht : exec (.write pa len data) s = .next t) : t.seq.path =
      if t.seq.status = .ok then [.decode, .access, .done] else [.decode, .done] := by
  obtain ⟨-, u, hr, rfl⟩ | ⟨k, u, hr, rfl⟩ | ⟨b, rfl⟩ := exec_next_cases ht
  · have kept := memWrite_keepsSeq pa.toNat data
      (((Instr.write pa len data).entry s).enter .access)
    rw [writeWork_ok hr] at kept
    rw [State.respond_path, show u.seq = _ from kept]
    rfl
  · obtain ⟨rfl, rfl⟩ := writeWork_raised hr
    rfl
  · rfl

theorem eq_write_of_opcode (h : i.opcode = 1) : ∃ pa len data, i = .write pa len data := by
  cases i with
  | write pa len data => exact ⟨pa, len, data, rfl⟩
  | _ => nomatch h

/-- Settles O54: the table commands' work leaves the sequencer as it was, and WRITE's enters ACCESS before it writes. -/
theorem otherCommandsRunInDecode : Obligations.OtherCommandsRunInDecode := by
  intro i s t ht hop
  by_cases hwrite : i.opcode = 1
  · obtain ⟨pa, len, data, rfl⟩ := eq_write_of_opcode hwrite
    simpa [hwrite] using exec_write_path ht
  · rw [if_neg fun h => hwrite h.1]
    obtain ⟨la, len, rfl⟩ | ⟨pa, len, data, rfl⟩ | tables := read_or_write_or_writesTables i
    · exact absurd rfl hop
    · exact absurd rfl hwrite
    · exact exec_path_of_writesTables tables ht

end

/-! ## READ in real mode (R123) -/

section
variable {s : State}

theorem bytesAt_readRange (m : Memory) (a n : Nat) :
    bytesAt (Memory.read m) a n (Memory.readRange m a n) :=
  ⟨Memory.length_readRange m a n, fun k hk => Memory.getElem?_readRange m a n k hk⟩

/-- The registers an unpaged READ writes on its way from its checks to ACCESS (R128, R129). -/
theorem State.accessed_seq (s : State) (lin phys : Nat) (len : Word32) :
    ∃ q : Seq, ((s.linear lin len).physical phys).enter .access = { s with seq := q } ∧
      q.lin = toReg32 lin ∧ q.phys = toReg32 phys ∧ q.reqOp = s.seq.reqOp ∧
      q.path = s.seq.path ++ [.linearCompute, .physicalCompute, .access] :=
  ⟨(((s.linear lin len).physical phys).enter .access).seq, rfl, rfl, rfl, rfl, by
    simp [State.linear, State.physical, State.enter]⟩

/-- A real-mode READ inside the backing store reads it there, by one event or none (R123). -/
theorem readReal_completes {off len : Word32} (hin : off.toNat + len.toNat ≤ s.cfg.diskSize) :
    ∃ q : Seq, readReal off len s = .ok () { s with
        seq := q
        trace := s.trace ++ if len = 0 then [] else [.bsRead off len] } ∧
      q.result = Memory.readRange s.cfg.disk off.toNat len.toNat ∧
      q.lin = off ∧ q.phys = off ∧ q.reqOp = s.seq.reqOp ∧
      q.path = s.seq.path ++ [.linearCompute, .physicalCompute, .access] := by
  obtain ⟨q, haccessed, hlin, hphys, hop, hpath⟩ := s.accessed_seq off.toNat off.toNat len
  rw [toReg32_toNat] at hlin hphys
  unfold readReal
  rw [if_neg (by omega)]
  dsimp only
  rw [haccessed]
  refine ⟨{ q with result := Memory.readRange s.cfg.disk off.toNat len.toNat }, ?_, rfl, hlin, hphys,
    hop, hpath⟩
  split
  next hlen => simp [hlen, Memory.readRange, State.setResult]
  next =>
    rw [(diskRead_eq_ok off.toNat len.toNat { s with seq := q } _ _).2 ⟨hin, rfl, rfl⟩,
      toReg32_toNat, toReg32_toNat]
    rfl

/-- Settles O20: inside the backing store the READ completes, and beyond it the one check raises before anything is changed. -/
theorem realModeReadsTheBackingStore : Obligations.RealModeReadsTheBackingStore := by
  intro s la len hf hmode
  rw [exec_read_real hf hmode]
  refine ⟨fun hin => ?inside, fun hout => ?beyond⟩
  case inside =>
    obtain ⟨q, hwork, hresult, hlin, hphys, hop, -⟩ := readReal_completes (off := offOf la)
      (len := len) (s := ((s.accept 0).latchRead la len).latchSelector la) hin
    refine ⟨_, ⟨congrArg (Res.finish _) hwork, rfl, rfl⟩, rfl, ?_, hlin, hphys⟩
    rw [response_data_of_read rfl hop]
    exact (congrArg (bytesAt _ _ _) hresult).mpr (bytesAt_readRange _ _ _)
  case beyond =>
    exact ⟨_, congrArg (Res.finish _) (if_pos hout), rfl, rfl⟩

end
end Sys2Proof.Machine

namespace Sys2Proof.Machine

/-! ## What a page fault does (R191 to R198) -/

section
variable {s t u : State}

/-- Frame `f` goes before frame `g` in the order of replacement: it is older, or as old and no higher (R195). -/
def State.frameBefore (s : State) (f g : Nat) : Prop :=
  (s.frame f).ts.toNat < (s.frame g).ts.toNat ∨
    (s.frame f).ts.toNat = (s.frame g).ts.toNat ∧ f ≤ g

/-- Going on over the next `n` frames from one that goes before all frames below `a` ends with one that goes before all below `a + n` (R195). -/
theorem frameBefore_foldl (n a b : Nat) (hb : b < a) (hbefore : ∀ g < a, s.frameBefore b g) :
    ∀ g < a + n, s.frameBefore ((List.range' a n).foldl
      (fun best f => if (s.frame f).ts < (s.frame best).ts then f else best) b) g := by
  induction n generalizing a b with
  | zero => exact hbefore
  | succ n ih =>
    intro g hg
    rw [List.range'_succ, List.foldl_cons]
    refine ih (a + 1) _ ?_ (fun g hg => ?_) g (by omega)
    · split <;> omega
    simp only [State.frameBefore, BitVec.lt_def] at hbefore ⊢
    obtain hlt | rfl : g < a ∨ g = a := by omega
    · have old := hbefore g hlt
      split <;> omega
    · split <;> omega

/-- The frame to be freed goes before every frame (R195). -/
theorem oldestFrame_before (s : State) {g : Nat} (hg : g < s.cfg.numFrames) :
    s.frameBefore (oldestFrame s) g := by
  refine frameBefore_foldl (s.cfg.numFrames - 1) 1 0 Nat.zero_lt_one (fun g hg => .inr ⟨?_, ?_⟩) g
    (by omega)
  · rw [Nat.lt_one_iff.1 hg]
  · exact Nat.zero_le g

/-- Frame `f` is the next to take a page: the lowest that holds none, or, with all in use, the one that goes before all others (R194, R195). -/
def State.prefersFrame (s : State) (f : Nat) : Prop :=
  ((s.frame f).resident = false ∧ ∀ g < f, (s.frame g).resident = true) ∨
    ∀ g < s.cfg.numFrames, (s.frame g).resident = true ∧ s.frameBefore f g

/-- The choice of a frame writes the two page tables, and there the chosen frame and its page's entry alone (R194 to R196). -/
theorem chooseFrame_prefers {f : Nat} (h : chooseFrame s = .ok f t) : s.prefersFrame f ∧
    t = { s with pt := t.pt, rpt := t.rpt } ∧ (∀ g, g ≠ f → t.frame g = s.frame g) := by
  obtain ⟨hfree, rfl⟩ | ⟨hfree, rfl, hevict⟩ := (chooseFrame_eq_ok _ _ _).1 h
  · obtain ⟨-, -, hres, hlower⟩ := (freeFrame_eq_some _ _ _ _).1 hfree
    exact ⟨.inl ⟨hres, fun g hg => hlower g (Nat.zero_le g) hg⟩, rfl, fun _ _ => rfl⟩
  · obtain ⟨-, -, rfl⟩ := (evictPage_eq_ok _ _ _).1 hevict
    refine ⟨.inr fun g hg => ⟨?_, oldestFrame_before s hg⟩, rfl, fun g hg => ?_⟩
    · exact (freeFrame_eq_none _ _ _).1 hfree g (Nat.zero_le g) (by omega)
    · exact State.setFrame_frame_other _ _ _ _ hg

/-- State `t` is `s` after a page fault of page `v` into frame `f` (R191, R198). -/
structure State.LoadsPage (s : State) (v f : Nat) (t : State) : Prop where
  chosen : s.prefersFrame f
  frame : t = { s with
    pt := t.pt
    rpt := t.rpt
    mem := t.mem
    trace := s.trace ++ visitEvents s.cfg ⟨v, f, true⟩ }
  entry : (t.page v).resident = true ∧ (t.page v).frame = f
  held : (t.frame f).resident = true ∧ (t.frame f).owner = v
  pages : ∀ w, w ≠ v → (t.page w).resident = true → t.page w = s.page w
  frames : ∀ g, g ≠ f → t.frame g = s.frame g
  loaded : ∀ k < s.cfg.pageSize, t.byte (f * s.cfg.pageSize + k) =
    Memory.read s.cfg.disk (v * s.cfg.pageSize + k)
  kept : ∀ a, a / s.cfg.pageSize ≠ f → t.byte a = s.byte a

/-- An address outside frame `f` lies before or behind its bytes (R95). -/
theorem outside_frame {size f a : Nat} (hsize : 0 < size) (ha : a / size ≠ f) :
    a < f * size ∨ f * size + size ≤ a := by
  by_contra hin
  exact ha ((Nat.div_eq_iff hsize).2 (by omega))

/-- A page fault that completes loads its page (R191, R198). -/
theorem pageFault_loads {v f : Nat} (h : pageFault v s = .ok f t) : s.LoadsPage v f t := by
  obtain ⟨u, w, hchoose, -, hw, rfl⟩ := (pageFault_eq_ok _ _ _ _).1 h
  obtain ⟨hchosen, hframe, hframes⟩ := chooseFrame_prefers hchoose
  obtain ⟨hcfg, hmem, hpages⟩ := chooseFrame_keeps hchoose
  have written := ((memWrite_eq_ok _ _ _ _ _).1 hw).2
  have nonempty : Memory.readRange u.cfg.disk (v * u.cfg.pageSize) u.cfg.pageSize ≠ [] :=
    List.ne_nil_of_length_pos (by simpa using u.cfg.pageSize_pos)
  rw [if_neg nonempty, Memory.length_readRange, hcfg] at written
  have trace : w.trace = s.trace ++ visitEvents s.cfg ⟨v, f, true⟩ := by
    rw [written, hframe]
    simp [visitEvents]
  have same := memWrite_eq_of_length_pos (by simpa using u.cfg.pageSize_pos) hw
  have page (x : Nat) : w.page x = u.page x := by rw [written]; rfl
  have byte (a : Nat) : w.byte a = Memory.read (Memory.write s.mem (f * s.cfg.pageSize)
      (Memory.readRange s.cfg.disk (v * s.cfg.pageSize) s.cfg.pageSize)) a := by
    rw [written, ← hmem]; rfl
  refine ⟨hchosen, ?frame, by simp, by simp, fun x hx hr => ?pages, fun g hg => ?frames,
    fun k hk => ?loaded, fun a ha => ?kept⟩
  case frame =>
    rw [← trace, same, hframe]
    rfl
  case pages =>
    rw [State.setFrame_page, State.setPage_page_other _ _ _ _ hx, page] at hr ⊢
    exact hpages x hr
  case frames =>
    rw [State.setFrame_frame_other _ _ _ _ hg, State.setPage_frame, ← hframes g hg, written]
    rfl
  case loaded => exact (byte _).trans (Memory.read_write_readRange _ _ _ _ _ _ hk)
  case kept =>
    refine (byte _).trans (Memory.read_write_outside _ _ _ _ ?_)
    rw [Memory.length_readRange]
    exact outside_frame s.cfg.pageSize_pos ha

/-- `EnsurePage` that completes: a hit or a page fault, then one stamp of the frame answered (R191, R192, R199). -/
theorem ensurePage_hit_or_loads {visit : Bool} {v f : Nat} (h : ensurePage visit v s = .ok f t) :
    ∃ u, t = ({ u with clock := s.clock + 1 }).setFrame f { u.frame f with ts := s.clock + 1 } ∧
      s.clock ≠ BitVec.allOnes 64 ∧
      ((s.page v).resident = true ∧ f = (s.page v).frame ∧ (s.frame f).resident = true ∧
          (s.frame f).owner = v ∧ u = s ∨
        (s.page v).resident = false ∧
          (if visit then s.enter .pageFault else s).LoadsPage v f u) := by
  obtain ⟨u, hlookup, hstamp⟩ := (ensurePage_eq_ok _ _ _ _ _).1 h
  obtain ⟨hroom, rfl⟩ := (stampFrame_eq_ok _ _ _ _).1 hstamp
  obtain ⟨hhit, rfl⟩ | ⟨hmiss, hfault⟩ := hlookup
  · obtain ⟨-, -, hres, hf, -, hheld, howner, -⟩ := (pageLookup_eq_some _ _ _ _).1 hhit
    exact ⟨u, rfl, hroom, .inl ⟨hres, hf, hheld, howner, rfl⟩⟩
  · obtain ⟨-, -, hres, -⟩ := (pageLookup_eq_none _ _ _).1 hmiss
    have loads := pageFault_loads hfault
    have clock : u.clock = s.clock := by
      rw [loads.frame]
      cases visit <;> rfl
    rw [clock] at hroom ⊢
    exact ⟨u, rfl, hroom, .inr ⟨hres, loads⟩⟩

/-- `EnsurePage` makes its page resident in the frame it answers, and no other page (R191, R198). -/
theorem ensurePage_pages {visit : Bool} {v f : Nat} (h : ensurePage visit v s = .ok f t) :
    (t.page v).resident = true ∧ (t.page v).frame = f ∧
      ∀ w, w ≠ v → (t.page w).resident = true → t.page w = s.page w := by
  obtain ⟨u, rfl, -, ⟨hres, rfl, -, -, rfl⟩ | ⟨-, hloads⟩⟩ := ensurePage_hit_or_loads h
  · exact ⟨hres, rfl, fun _ _ _ => rfl⟩
  · refine ⟨hloads.entry.1, hloads.entry.2, fun w hw hr => (hloads.pages w hw hr).trans ?_⟩
    cases visit <;> rfl

/-- A chunk's `EnsurePage` visits PAGE_FAULT exactly where its page is not resident (R121, R191). -/
theorem ensurePage_seq {visit : Bool} {v f : Nat} (h : ensurePage visit v s = .ok f t) :
    t.seq = if visit && !(s.page v).resident then (s.enter .pageFault).seq else s.seq := by
  obtain ⟨u, rfl, -, ⟨hres, rfl, -, -, rfl⟩ | ⟨hres, hloads⟩⟩ := ensurePage_hit_or_loads h
  · simp [hres]
  · rw [State.setFrame_seq, hloads.frame, hres]
    cases visit <;> rfl

/-- `EnsurePage` keeps the parameters. -/
theorem ensurePage_cfg {visit : Bool} {v f : Nat} (h : ensurePage visit v s = .ok f t) :
    t.cfg = s.cfg := by
  have led := ensurePage_leads extendedBy_keptByUpdates visit v s
  rw [h] at led
  exact led.cfg

end
end Sys2Proof.Machine

namespace Sys2Proof.Machine

section
variable {s t u : State}

/-! ## The chunks of a paged READ, and their path (R121, R130) -/

/-- A chunk that completes: `EnsurePage` for its page, then one access of its frame (R130). -/
theorem readChunk_inv {lin n : Nat} (h : readChunk lin n s = .ok () t) :
    ∃ f u, ensurePage true (lin / s.cfg.pageSize) (s.lookup lin) = .ok f u ∧ u.cfg = s.cfg ∧
      t = { u with seq := t.seq } ∧ t.seq.path = u.seq.path ++ [.physicalCompute, .access] ∧
      t.seq.result = u.seq.result ++
        Memory.readRange u.mem (f * s.cfg.pageSize + lin % s.cfg.pageSize) n := by
  rw [readChunk_eq] at h
  obtain ⟨f, u, hensure, h⟩ := (Res.bind_eq_ok _ _ _ _).1 h
  obtain ⟨bytes, w, hread, h⟩ := (Res.bind_eq_ok _ _ _ _).1 h
  obtain ⟨-, rfl⟩ := Res.ok.inj h
  obtain ⟨-, rfl, rfl⟩ := (memRead_eq_ok _ _ _ _ _).1 hread
  have hcfg : u.cfg = s.cfg := (ensurePage_cfg hensure :)
  refine ⟨f, u, hensure, hcfg, rfl, ?_, ?_⟩
  · simp [State.access, State.physical, State.enter, State.setResult]
  · rw [State.setResult_result, hcfg]
    rfl

/-- A chunk visits PAGE_FAULT exactly where its page is not resident (R121, R135). -/
theorem readChunk_path {lin n : Nat} (h : readChunk lin n s = .ok () t) : t.seq.path =
    s.seq.path ++ chunkPath !(s.page (lin / s.cfg.pageSize)).resident := by
  obtain ⟨f, u, hensure, -, -, hpath, -⟩ := readChunk_inv h
  have page : (s.lookup lin).page (lin / s.cfg.pageSize) = s.page (lin / s.cfg.pageSize) := rfl
  rw [hpath, ensurePage_seq hensure, page]
  cases (s.page (lin / s.cfg.pageSize)).resident <;>
    simp [chunkPath, State.lookup, State.enter]

/-- A chunk makes its page resident, and no other page (R191, R198). -/
theorem readChunk_pages {lin n : Nat} (h : readChunk lin n s = .ok () t) :
    t.cfg = s.cfg ∧ (t.page (lin / s.cfg.pageSize)).resident = true ∧
      ∀ w, w ≠ lin / s.cfg.pageSize → (t.page w).resident = true → t.page w = s.page w := by
  obtain ⟨f, u, hensure, hcfg, ht, -⟩ := readChunk_inv h
  have page (w : Nat) : t.page w = u.page w := by rw [ht]; rfl
  obtain ⟨hres, -, hothers⟩ := ensurePage_pages hensure
  refine ⟨by rw [ht]; exact hcfg, by rw [page]; exact hres, fun w hw hr => ?_⟩
  rw [page] at hr ⊢
  exact hothers w hw hr

/-- A chunk appends to RESULT the bytes it reads in the frame that then holds its page (R95, R130). -/
theorem readChunk_result {lin n : Nat} (hn : lin % s.cfg.pageSize + n ≤ s.cfg.pageSize)
    (h : readChunk lin n s = .ok () t) :
    t.seq.result = s.seq.result ++ (List.range' lin n).map t.residentByte := by
  obtain ⟨f, u, hensure, hcfg, ht, -, hresult⟩ := readChunk_inv h
  obtain ⟨-, hframe, -⟩ := ensurePage_pages hensure
  have begun : u.seq.result = s.seq.result := by
    rw [ensurePage_seq hensure]
    split <;> rfl
  have same : t.residentByte = u.residentByte := by rw [ht]; rfl
  rw [hresult, begun, same, ← readRange_of_page (by rw [hcfg]; exact hn), hcfg, hframe]

/-- In a chunk that is not the last the next one begins the next page (R130). -/
theorem chunkSize_next (c : Config) {lin remain : Nat}
    (h : 0 < remain - chunkSize c lin remain) :
    (lin + chunkSize c lin remain) / c.pageSize = lin / c.pageSize + 1 := by
  have hmod : lin % c.pageSize < c.pageSize := Nat.mod_lt _ c.pageSize_pos
  have hdiv := Nat.div_add_mod lin c.pageSize
  unfold chunkSize poffOf at h ⊢
  rw [Nat.min_eq_right (by omega)]
  have : lin + (c.pageSize - lin % c.pageSize) = c.pageSize * (lin / c.pageSize + 1) := by
    rw [Nat.mul_succ]
    omega
  rw [this, Nat.mul_div_cancel_left _ c.pageSize_pos]

/-- Of the chunks from state `s` on, which take a page fault: for each a Boolean. One whose page is not resident does, and none does where all their pages are resident. -/
structure State.ChunkFaults (s : State) (lin n : Nat) (faults : List Bool) (t : State) : Prop where
  length : faults.length = chunkCount s.cfg lin n
  missing : ∀ k < faults.length, (s.page (lin / s.cfg.pageSize + k)).resident = false →
    faults[k]? = some true
  resident : (∀ k < faults.length, (s.page (lin / s.cfg.pageSize + k)).resident = true) →
    ∀ k < faults.length, faults[k]? = some false
  path : t.seq.path = s.seq.path ++ faults.flatMap chunkPath

theorem State.ChunkFaults.none (lin : Nat) : s.ChunkFaults lin 0 [] s :=
  ⟨rfl, nofun, fun _ => nofun, by simp⟩

theorem State.ChunkFaults.of_seq {lin n : Nat} {faults : List Bool} {q : Seq}
    (h : s.ChunkFaults lin n faults t) (hq : q.path = s.seq.path) :
    ({ s with seq := q }).ChunkFaults lin n faults t :=
  ⟨h.length, h.missing, h.resident, hq ▸ h.path⟩

/-- A first chunk, and the chunks of what is left after it (R130). -/
theorem State.ChunkFaults.cons {lin n : Nat} {faults : List Bool} (hn : 0 < n)
    (h : readChunk lin (chunkSize s.cfg lin n) s = .ok () t)
    (h' : t.ChunkFaults (lin + chunkSize s.cfg lin n) (n - chunkSize s.cfg lin n) faults u) :
    s.ChunkFaults lin n ((!(s.page (lin / s.cfg.pageSize)).resident) :: faults) u := by
  obtain ⟨hpos, -, hpage⟩ := chunkSize_bounds s.cfg lin hn
  obtain ⟨hcfg, -, hothers⟩ := readChunk_pages h
  have later (k : Nat) (hk : k < faults.length) :
      (lin + chunkSize s.cfg lin n) / t.cfg.pageSize + k = lin / s.cfg.pageSize + (k + 1) := by
    have rest : 0 < n - chunkSize s.cfg lin n := by
      rw [h'.length] at hk
      by_contra hzero
      rw [Nat.eq_zero_of_not_pos hzero] at hk
      exact absurd hk (Nat.not_lt_zero k)
    rw [hcfg, chunkSize_next s.cfg rest]
    omega
  refine ⟨?length, fun k hk hmiss => ?missing, fun hres k hk => ?resident, ?path⟩
  case length => rw [List.length_cons, h'.length, hcfg, chunkCount_step hn, Nat.add_comm]
  case missing =>
    cases k with
    | zero => simpa using hmiss
    | succ k =>
      have hk' : k < faults.length := by simpa using hk
      rw [List.getElem?_cons_succ]
      refine h'.missing k hk' ?_
      rw [later k hk']
      by_contra hr
      rw [Bool.not_eq_false] at hr
      rw [← hothers _ (by omega) hr, hr] at hmiss
      nomatch hmiss
  case resident =>
    have first : (s.page (lin / s.cfg.pageSize)).resident = true := hres 0 (by simp)
    cases k with
    | zero => simp [first]
    | succ k =>
      have reads := readChunk_of_resident (by omega) hpage first h
      rw [List.getElem?_cons_succ]
      refine h'.resident (fun j hj => ?_) k (by simpa using hk)
      rw [later j hj, reads.frame]
      exact hres (j + 1) (by simpa using hj)
  case path => rw [h'.path, readChunk_path h, List.flatMap_cons, List.append_assoc]

theorem readChunks_faults {turns lin remain : Nat} (hturns : remain ≤ turns)
    (h : readChunks turns lin remain s = .ok () t) : ∃ faults, s.ChunkFaults lin remain faults t := by
  induction turns generalizing lin remain s with
  | zero =>
    obtain rfl : remain = 0 := by omega
    obtain ⟨-, rfl⟩ := Res.ok.inj h
    exact ⟨_, .none lin⟩
  | succ turns ih =>
    unfold readChunks at h
    split at h
    next hzero =>
      subst hzero
      obtain ⟨-, rfl⟩ := Res.ok.inj h
      exact ⟨_, .none lin⟩
    next hne =>
      obtain ⟨hpos, hle, -⟩ := chunkSize_bounds s.cfg lin (Nat.pos_of_ne_zero hne)
      obtain ⟨⟨⟩, u, hchunk, hrest⟩ := (Res.bind_eq_ok _ _ _ _).1 h
      obtain ⟨faults, hfaults⟩ := ih (by omega) hrest
      exact ⟨_, .cons (Nat.pos_of_ne_zero hne) hchunk (hfaults.of_seq (q := u.seq) rfl)⟩

/-! ## Translated READs that answer OK (R124) -/

/-- The sequencer's registers as the segment phase of a READ finds them: accepted, latched, in SEGMENT_LOOKUP (R21, R122, R124). -/
def State.lookingSeq (s : State) (la : LogicalAddr) (len : Word32) : Seq :=
  ((((s.accept 0).latchRead la len).latchSelector la).enter .segmentLookup).seq

/-- State `s` as the segment phase of a READ finds it (R124). -/
def State.looking (s : State) (la : LogicalAddr) (len : Word32) : State :=
  { s with seq := s.lookingSeq la len }

/-- What comes before the segment phase of a READ writes the sequencer's registers alone (R122, R124). -/
theorem State.enter_segmentLookup (s : State) (la : LogicalAddr) (len : Word32) :
    (((s.accept 0).latchRead la len).latchSelector la).enter .segmentLookup = s.looking la len := rfl

@[simp] theorem State.looking_reqOp (s : State) (la : LogicalAddr) (len : Word32) :
    (s.looking la len).seq.reqOp = 0 := rfl

@[simp] theorem State.looking_path (s : State) (la : LogicalAddr) (len : Word32) :
    (s.looking la len).seq.path = [.decode, .segmentLookup] := rfl

@[simp] theorem State.looking_seg (s : State) (la : LogicalAddr) (len : Word32) (i : Nat) :
    (s.looking la len).seg i = s.seg i := rfl

/-- The access of a READ: by chunks in paged mode, else in one piece (R129, R130). -/
def readAccess (sel : Nat) (off len : Word32) (s : State) : Res Unit :=
  if s.mode.pag then readPaged sel off len s else readSegment sel off len s

/-- A READ that passes its checks answers OK where its segment phase and its access complete (R124 to R130). -/
theorem exec_read_completes {la : LogicalAddr} {len : Word32} {w : State} (hf : s.fatal = false)
    (hseg : s.mode.seg = true) (hread : readable la len s)
    (hphase : segmentPhase (selOf la).toNat (s.looking la len) = .ok () w)
    (haccess : readAccess (selOf la).toNat (offOf la) len w = .ok () u) :
    exec (.read la len) s = .next (u.respond .ok) := by
  obtain ⟨hlt, hpop, hoff, hlen⟩ := hread
  have checks := (segmentChecks_eq_ok _ _ _ (s.looking la len) _).2 ⟨hlt, hpop, hoff, hlen, rfl⟩
  rw [exec_read_translated hf hseg, (readTranslated_eq_ok _ _ _ _ u).2
    ⟨checks, w, hphase, haccess⟩, Res.finish]

/-- A translated READ that answers OK passed its checks, and its segment phase and its access completed (R124 to R130). -/
theorem exec_read_translated_ok {la : LogicalAddr} {len : Word32} (hseg : s.mode.seg = true)
    (ht : exec (.read la len) s = .next t) (hok : t.seq.status = .ok) :
    s.fatal = false ∧ readable la len s ∧ ∃ w u,
      segmentPhase (selOf la).toNat (s.looking la len) = .ok () w ∧
      readAccess (selOf la).toNat (offOf la) len w = .ok () u ∧ t = u.respond .ok := by
  obtain ⟨hf, u, hwork, rfl⟩ | ⟨k, u, hwork, rfl⟩ | ⟨b, rfl⟩ := exec_next_cases ht
  · have translated : readTranslated (selOf la).toNat (offOf la) len
        (((s.accept 0).latchRead la len).latchSelector la) = .ok () u := by
      rw [← hwork]
      exact (if_pos (c := s.mode.seg = true) hseg).symm
    obtain ⟨hchecks, w, hphase, haccess⟩ := (readTranslated_eq_ok _ _ _ _ _).1 translated
    obtain ⟨hlt, hpop, hoff, hlen, -⟩ := (segmentChecks_eq_ok _ _ _ _ _).1 hchecks
    exact ⟨hf, ⟨hlt, hpop, hoff, hlen⟩, w, u, hphase, haccess, rfl⟩
  · have returns := readWork_returns la len (Instr.entry (.read la len) s)
    rw [show readWork la len _ = _ from hwork] at returns
    exact absurd hok returns
  · nomatch hok

/-- A segment phase that completes visits SEGMENT_FAULT exactly where the descriptor is not valid (R121, R126). -/
theorem segmentPhase_path {sel : Nat} (h : segmentPhase sel s = .ok () t) : t.seq.path =
    s.seq.path ++ if (s.seg sel).valid then [] else [.segmentFault] := by
  have kept := segmentPhase_ensures_seq sel s
  rw [h] at kept
  rw [show t.seq = _ from kept]
  split <;> simp [State.enter]

end
end Sys2Proof.Machine

namespace Sys2Proof.Machine

section
variable {s t u : State}

/-! ## What allocation writes and announces (R163, R165) -/

/-- State `t` is `s` after regions were moved or evicted: the segment table, the memory and the trace differ alone; the events are notices, and in paged mode there is none (R163, R171). -/
structure State.Moves (s t : State) : Prop where
  frame : t = { s with st := t.st, mem := t.mem, trace := t.trace }
  notices : ∃ moves, t.trace = s.trace ++ moves ∧ (∀ e ∈ moves, ∃ a n, e = .notice a n) ∧
    (s.mode.pag = true → moves = [])

theorem State.Moves.of_silent (h : t = { s with st := t.st }) : s.Moves t :=
  ⟨by rw [h], [], by rw [h, List.append_nil], nofun, fun _ => rfl⟩

theorem State.Moves.trans (h : s.Moves t) (h' : t.Moves u) : s.Moves u := by
  obtain ⟨ms, htrace, hms, hpag⟩ := h.notices
  obtain ⟨ms', htrace', hms', hpag'⟩ := h'.notices
  have hmode : t.mode = s.mode := by rw [h.frame]
  refine ⟨by rw [h'.frame, h.frame], ms ++ ms', by rw [htrace', htrace, List.append_assoc],
    fun e he => ?_, fun hp => ?_⟩
  · exact (List.mem_append.1 he).elim (hms e) (hms' e)
  · rw [hpag hp, hpag' (hmode ▸ hp), List.append_nil]

theorem slideTo_moves {i cur : Nat} (h : slideTo i cur s = .ok () t) : s.Moves t := by
  obtain ⟨-, rfl⟩ | ⟨-, -, rfl⟩ | ⟨-, ⟨hp, -⟩, -, -, rfl⟩ := (slideTo_eq_ok i cur s t ()).1 h
  · exact .of_silent rfl
  · exact .of_silent rfl
  · refine ⟨rfl, [_], rfl, fun e he => ?_, fun hpag => by simp [hp] at hpag⟩
    exact ⟨_, _, List.mem_singleton.1 he⟩

theorem compactFrom_moves {order : List Nat} {cur : Nat} (h : compactFrom order cur s = .ok () t) :
    s.Moves t := by
  induction order generalizing cur s with
  | nil =>
    obtain ⟨-, rfl⟩ := Res.ok.inj h
    exact .of_silent rfl
  | cons i rest ih =>
    obtain ⟨⟨⟩, u, hslide, hrest⟩ := (Res.bind_eq_ok _ _ _ _).1 h
    exact (slideTo_moves hslide).trans (ih hrest)

theorem allocate_moves {size a : Nat} (h : allocate size s = .ok a t) : s.Moves t := by
  obtain ⟨-, rfl⟩ | ⟨-, -, hcompact⟩ := (allocate_eq_ok _ _ _ _).1 h
  · exact .of_silent rfl
  · refine State.Moves.trans (.of_silent ?_) (compactFrom_moves hcompact)
    split
    · rfl
    · exact evictUntil_frame size (victimOrder s) s

/-! ### Allocation does not look at the sequencer -/

theorem slideTo_with_seq {i cur : Nat} (q : Seq) (h : slideTo i cur s = .ok () t) :
    slideTo i cur { s with seq := q } = .ok () { t with seq := q } := by
  refine (slideTo_eq_ok i cur _ _ ()).2 ?_
  obtain ⟨hplace, rfl⟩ | ⟨hplace, hstill, rfl⟩ | ⟨hplace, hmoves, hfrom, hto, rfl⟩ :=
    (slideTo_eq_ok i cur s t ()).1 h
  · exact .inl ⟨hplace, rfl⟩
  · exact .inr (.inl ⟨hplace, hstill, rfl⟩)
  · exact .inr (.inr ⟨hplace, hmoves, hfrom, hto, rfl⟩)

theorem compactFrom_with_seq {order : List Nat} {cur : Nat} (q : Seq)
    (h : compactFrom order cur s = .ok () t) :
    compactFrom order cur { s with seq := q } = .ok () { t with seq := q } := by
  induction order generalizing cur s with
  | nil =>
    obtain ⟨-, rfl⟩ := Res.ok.inj h
    rfl
  | cons i rest ih =>
    obtain ⟨⟨⟩, u, hslide, hrest⟩ := (Res.bind_eq_ok _ _ _ _).1 h
    exact (Res.bind_eq_ok _ _ _ _).2 ⟨(), _, slideTo_with_seq q hslide, ih hrest⟩

theorem evictUntil_with_seq (size : Nat) (order : List Nat) (s : State) (q : Seq) :
    evictUntil size order { s with seq := q } = { evictUntil size order s with seq := q } := by
  induction order generalizing s with
  | nil => rfl
  | cons i rest ih =>
    have free : totalFree (invalidate i { s with seq := q }) = totalFree (invalidate i s) := rfl
    rw [evictUntil, evictUntil, free]
    dsimp only
    split
    · rfl
    · exact ih (invalidate i s)

/-- Allocation places a region by the tables alone, wherever the sequencer stands (R165). -/
theorem allocate_with_seq {size a : Nat} (q : Seq) (h : allocate size s = .ok a t) :
    allocate size { s with seq := q } = .ok a { t with seq := q } := by
  refine (allocate_eq_ok _ _ _ _).2 ?_
  obtain ⟨hfit, rfl⟩ | ⟨hfit, hfit', hcompact⟩ := (allocate_eq_ok _ _ _ _).1 h
  · exact .inl ⟨hfit, rfl⟩
  · refine .inr ⟨hfit, hfit', ?_⟩
    have evicted : (if size ≤ totalFree { s with seq := q } then { s with seq := q }
        else evictUntil size (victimOrder { s with seq := q }) { s with seq := q }) =
        { (if size ≤ totalFree s then s else evictUntil size (victimOrder s) s) with seq := q } := by
      have free : totalFree { s with seq := q } = totalFree s := rfl
      rw [free]
      split
      · rfl
      · exact evictUntil_with_seq size (victimOrder s) s q
    rw [evicted]
    exact compactFrom_with_seq q hcompact

/-! ## The paths of a successful READ (R121, R135) -/

/-- `EnsurePage` for each of `n` pages makes those pages resident, and no other page (R168). -/
theorem loadPages_pages {n v w : Nat} (h : loadPages n v s = .ok () t)
    (hr : (t.page w).resident = true) : (s.page w).resident = true ∨ v ≤ w ∧ w < v + n := by
  induction n generalizing v s with
  | zero =>
    obtain ⟨-, rfl⟩ := Res.ok.inj h
    exact .inl hr
  | succ n ih =>
    obtain ⟨f, u, hensure, hrest⟩ := (Res.bind_eq_ok _ _ _ _).1 h
    obtain ⟨-, -, hothers⟩ := ensurePage_pages hensure
    by_cases hw : w = v
    · exact .inr (by omega)
    obtain hu | hin := ih hrest
    · exact .inl (by rwa [← hothers w hw hu])
    · exact .inr (by omega)

/-- Registration makes the pages of the segment's first half resident, and no other page (R168). -/
theorem segmentRegister_pages {i w : Nat} (h : segmentRegister i s = .ok () t)
    (hr : (t.page w).resident = true) : (s.page w).resident = true ∨
      firstPage s.cfg (s.seg i) ≤ w ∧ w < firstPage s.cfg (s.seg i) + halfCount s.cfg (s.seg i) := by
  obtain ⟨a, u, x, y, -, halloc, hmarked, hload, rfl⟩ := (segmentRegister_eq_ok _ _ _).1 h
  have hu := (allocate_moves halloc).frame
  obtain ⟨-, hx, -⟩ := (populatePages_eq_ok _ _ _ _).1 hmarked
  have hcfg : x.cfg = s.cfg := by rw [hx, State.setSeg_cfg, hu]
  rw [hcfg] at hload
  refine (loadPages_pages hload hr).imp_left fun hres => ?_
  rw [populatePages_page _ _ _ _ hmarked w, State.setSeg_page, hu] at hres
  split at hres
  · exact hres
  · exact hres

/-- The segment phase of a paged READ makes the pages it registers resident, and no other page (R126, R168). -/
theorem segmentPhase_pages {sel w : Nat} (hp : s.mode.pag = true)
    (h : segmentPhase sel s = .ok () t) (hr : (t.page w).resident = true) :
    (s.page w).resident = true ∨ (s.seg sel).valid = false ∧ firstPage s.cfg (s.seg sel) ≤ w ∧
      w < firstPage s.cfg (s.seg sel) + halfCount s.cfg (s.seg sel) := by
  obtain ⟨u, hfault, hstamp⟩ := (segmentPhase_eq_ok _ _ _).1 h
  obtain ⟨-, rfl⟩ := (stampSegment_eq_ok _ _ _ _).1 hstamp
  obtain ⟨-, rfl⟩ | ⟨hv, hregister⟩ := hfault
  · exact .inl hr
  · rw [segmentFault, if_pos (show (s.enter .segmentFault).mode.pag = true from hp)] at hregister
    exact (segmentRegister_pages hregister hr).imp_right fun hin => ⟨hv, hin⟩

/-- The pages a READ registers are the first it visits (R168). -/
theorem visitedPages_take (s : State) (la : LogicalAddr) (len : Word32) :
    (visitedPages s la len).take (registeredPages s la) =
      List.range' (firstPage s.cfg (s.seg (selOf la).toNat)) (registeredPages s la) := by
  unfold visitedPages
  exact List.take_left' (List.length_range' ..)

/-- READ in segment mode completes where the bytes it reads are inside ResidentMemory, and writes the sequencer's registers alone (R128, R129). -/
theorem readSegment_completes {sel : Nat} {off len : Word32}
    (hin : (s.seg sel).base.toNat + off.toNat + len.toNat ≤ s.cfg.memSize) :
    ∃ q : Seq, readSegment sel off len s = .ok () { s with seq := q } ∧
      q.result = Memory.readRange s.mem ((s.seg sel).base.toNat + off.toNat) len.toNat ∧
      q.reqOp = s.seq.reqOp ∧
      q.path = s.seq.path ++ [.linearCompute, .physicalCompute, .access] := by
  obtain ⟨q, haccessed, -, -, hop, hpath⟩ := s.accessed_seq
    ((s.seg sel).base.toNat + off.toNat) ((s.seg sel).base.toNat + off.toNat) len
  refine ⟨{ q with result :=
    Memory.readRange s.mem ((s.seg sel).base.toNat + off.toNat) len.toNat }, ?_, rfl, hop, hpath⟩
  unfold readSegment
  dsimp only
  rw [haccessed, (memRead_eq_ok _ _ { s with seq := q } _ _).2 ⟨hin, rfl, rfl⟩]
  rfl

/-- READ in segment mode completes nowhere else (R63, R129). -/
theorem readSegment_bound {sel : Nat} {off len : Word32} (h : readSegment sel off len s = .ok () t) :
    (s.seg sel).base.toNat + off.toNat + len.toNat ≤ s.cfg.memSize := by
  obtain ⟨q, haccessed⟩ := s.accessed_eq
    ((s.seg sel).base.toNat + off.toNat) ((s.seg sel).base.toNat + off.toNat) len
  unfold readSegment at h
  dsimp only at h
  rw [haccessed] at h
  obtain ⟨bytes, w, hread, -⟩ := (Res.bind_eq_ok _ _ _ _).1 h
  exact ((memRead_eq_ok _ _ _ _ _).1 hread).1

/-- READ in segment mode that completes: the bytes at base + OFF (R128, R129). -/
theorem readSegment_inv {sel : Nat} {off len : Word32} (h : readSegment sel off len s = .ok () t) :
    t = { s with seq := t.seq } ∧
      t.seq.result = Memory.readRange s.mem ((s.seg sel).base.toNat + off.toNat) len.toNat ∧
      t.seq.path = s.seq.path ++ [.linearCompute, .physicalCompute, .access] := by
  obtain ⟨q, hq, hresult, -, hpath⟩ := readSegment_completes (readSegment_bound h)
  obtain ⟨-, rfl⟩ := Res.ok.inj (h.symm.trans hq)
  exact ⟨rfl, hresult, hpath⟩

/-- The path of a READ that answers OK in real mode (R121, R123). -/
theorem exec_read_path_real {la : LogicalAddr} {len : Word32} (hseg : s.mode.seg = false)
    (ht : exec (.read la len) s = .next t) (hok : t.seq.status = .ok) :
    t.seq.path = [.decode, .linearCompute, .physicalCompute, .access, .done] := by
  have hf : s.fatal = false := by
    by_contra hf
    obtain rfl := Host.Outcome.next.inj
      ((exec_of_fatal _ (by simpa using hf)).symm.trans ht)
    nomatch hok
  rw [exec_read_real hf hseg] at ht
  by_cases hin : (offOf la).toNat + len.toNat ≤ s.cfg.diskSize
  · obtain ⟨q, hwork, -, -, -, -, hpath⟩ := readReal_completes
      (s := ((s.accept 0).latchRead la len).latchSelector la) hin
    rw [hwork] at ht
    obtain rfl := Host.Outcome.next.inj ht
    rw [State.respond_path, hpath]
    rfl
  · obtain rfl := Host.Outcome.next.inj
      ((congrArg (Res.finish _) (if_pos (not_le.1 hin))).symm.trans ht)
    nomatch hok

/-- The path of a READ that answers OK in segment mode (R121, R129). -/
theorem exec_read_path_segment {la : LogicalAddr} {len : Word32} (hseg : s.mode.seg = true)
    (hp : s.mode.pag = false) (ht : exec (.read la len) s = .next t) (hok : t.seq.status = .ok) :
    t.seq.path = [.decode, .segmentLookup] ++
      (if (s.seg (selOf la).toNat).valid then [] else [.segmentFault]) ++
      [.linearCompute, .physicalCompute, .access, .done] := by
  obtain ⟨-, -, w, u, hphase, haccess, rfl⟩ := exec_read_translated_ok hseg ht hok
  have kept := segmentPhase_ends (registrations_keptByRead (selOf la).toNat) (s.looking la len)
  rw [hphase] at kept
  rw [readAccess, if_neg (by rw [kept.mode]; exact (Bool.eq_false_iff.1 hp :))] at haccess
  obtain ⟨-, -, hpath⟩ := readSegment_inv haccess
  rw [State.respond_path, hpath, segmentPhase_path hphase, State.looking_seg, State.looking_path]
  simp

/-- READ in paged mode that completes went through the chunks from `diskBase + OFF` on (R128, R130). -/
theorem readPaged_faults {sel : Nat} {off len : Word32} (h : readPaged sel off len s = .ok () t) :
    ∃ q : Seq, q.path = s.seq.path ++ [.linearCompute] ∧ ∃ faults, ({ s with seq := q }).ChunkFaults
      ((s.seg sel).diskBase.toNat + off.toNat) len.toNat faults t := by
  obtain ⟨faults, hfaults⟩ := readChunks_faults (le_refl _) h
  exact ⟨_, rfl, faults, hfaults⟩

/-- The path of a READ that answers OK in paged mode, and which of its chunks take a page fault (R121, R130, R135). -/
theorem exec_read_path_paged {la : LogicalAddr} {len : Word32} (hseg : s.mode.seg = true)
    (hp : s.mode.pag = true) (ht : exec (.read la len) s = .next t) (hok : t.seq.status = .ok) :
    ∃ (faults : List Bool) (w : State),
      segmentPhase (selOf la).toNat (s.looking la len) = .ok () w ∧
      faults.length = chunkCount s.cfg (readLin s la 0) len.toNat ∧
      (∀ k < faults.length, (w.page (readPage s la 0 + k)).resident = false →
        faults[k]? = some true) ∧
      ((∀ k < faults.length, (w.page (readPage s la 0 + k)).resident = true) →
        ∀ k < faults.length, faults[k]? = some false) ∧
      t.seq.path = [.decode, .segmentLookup] ++
        (if (s.seg (selOf la).toNat).valid then [] else [.segmentFault]) ++
        [.linearCompute] ++ faults.flatMap chunkPath ++ [.done] := by
  obtain ⟨-, -, w, u, hphase, haccess, rfl⟩ := exec_read_translated_ok hseg ht hok
  have kept := segmentPhase_ends (registrations_keptByRead (selOf la).toNat) (s.looking la len)
  rw [hphase] at kept
  rw [readAccess, if_pos (by rw [kept.mode]; exact hp)] at haccess
  obtain ⟨q, hq, faults, hfaults⟩ := readPaged_faults haccess
  have hcfg : w.cfg = s.cfg := kept.cfg
  have hdisk : (w.seg (selOf la).toNat).diskBase = (s.seg (selOf la).toNat).diskBase :=
    (kept.seg (selOf la).toNat).2.1
  have start : (w.seg (selOf la).toNat).diskBase.toNat + (offOf la).toNat = readLin s la 0 := by
    rw [hdisk]
    rfl
  rw [start] at hfaults
  refine ⟨faults, w, hphase, hcfg ▸ hfaults.length, ?_, ?_, ?_⟩
  · have := hfaults.missing
    rw [hcfg] at this
    exact this
  · have := hfaults.resident
    rw [hcfg] at this
    exact this
  · rw [State.respond_path, hfaults.path, hq, segmentPhase_path hphase, State.looking_seg,
      State.looking_path]

/-- A segment phase that registers nothing moves no page (R125). -/
theorem segmentPhase_of_valid {sel : Nat} (hv : (s.seg sel).valid = true)
    (h : segmentPhase sel s = .ok () t) : t = s.stampedAt sel := by
  obtain ⟨u, ⟨-, rfl⟩ | ⟨hnot, -⟩, hstamp⟩ := (segmentPhase_eq_ok _ _ _).1 h
  · exact ((stampSegment_eq_ok _ _ _ _).1 hstamp).2
  · exact absurd (hnot.symm.trans hv) nofun

/-- Settles O33: the segment phase, then the access of the mode; a chunk's page is resident only if it was before or was registered. -/
theorem successfulReadPaths : Obligations.SuccessfulReadPaths := by
  intro s t la len ht hok
  refine ⟨fun hseg => exec_read_path_real hseg ht hok,
    fun hseg hp => exec_read_path_segment hseg hp ht hok, fun hseg hp => ?_⟩
  obtain ⟨faults, w, hphase, hlen, hmissing, hresident, hpath⟩ :=
    exec_read_path_paged hseg hp ht hok
  refine ⟨faults, hlen, fun k hk hmiss hnew => hmissing k hk ?_, fun hv hres => ?_, hpath⟩
  · by_contra hr
    rw [Bool.not_eq_false] at hr
    obtain hbefore | ⟨hv, hlow, hhigh⟩ := segmentPhase_pages (s := s.looking la len) hp hphase hr
    · exact absurd (hmiss.symm.trans hbefore) nofun
    · have hv' : (s.seg (selOf la).toNat).valid = false := hv
      have registers : registeredPages s la = halfCount s.cfg (s.seg (selOf la).toNat) := by
        rw [registeredPages, hv']
        rfl
      rw [visitedPages_take, registers] at hnew
      exact hnew (List.mem_range'_1.2 ⟨hlow, hhigh⟩)
  · refine hresident fun k hk => ?_
    rw [segmentPhase_of_valid (s := s.looking la len) hv hphase]
    exact hres k hk

end
end Sys2Proof.Machine

namespace Sys2Proof.Machine

section
variable {s t u : State}

/-! ## The checks of SEGMENT_LOOKUP (R124) -/

theorem segmentChecks_of_unregistered {sel : Nat} {off len : Word32}
    (h : s.cfg.numSegments ≤ sel ∨ (s.seg sel).populated = false) :
    segmentChecks sel off len s = .raised .segmentFault s := by
  unfold segmentChecks
  split_ifs with hout hunpopulated
  · rfl
  · rfl
  all_goals exact absurd h (by simp [hout, hunpopulated])

theorem segmentChecks_of_beyond {sel : Nat} {off len : Word32} (hlt : sel < s.cfg.numSegments)
    (hpop : (s.seg sel).populated = true) (hoff : (s.seg sel).limit.toNat ≤ off.toNat) :
    segmentChecks sel off len s = .raised .invalidAddress s := by
  rw [segmentChecks, if_neg (not_le.2 hlt), if_neg (by simp [hpop]), if_pos hoff]

theorem segmentChecks_of_crossing {sel : Nat} {off len : Word32} (hlt : sel < s.cfg.numSegments)
    (hpop : (s.seg sel).populated = true) (hoff : off.toNat < (s.seg sel).limit.toNat)
    (hlen : (s.seg sel).limit.toNat < off.toNat + len.toNat) :
    segmentChecks sel off len s = .raised .crossSegmentRead s := by
  rw [segmentChecks, if_neg (not_le.2 hlt), if_neg (by simp [hpop]), if_neg (not_le.2 hoff),
    if_pos hlen]

/-- An answer from a state that differs from `s` in the sequencer's registers alone (R26, R132). -/
theorem endsUnchanged_respond (h : u = { s with seq := u.seq }) (k : Status) :
    endsUnchanged (.next (u.respond k)) s k :=
  ⟨(u.respond k).seq, congrArg _ (respond_of_seq h k), rfl, rfl⟩

/-- A check that fails ends the READ with its error, before anything is changed (R124). -/
theorem exec_read_of_failed_check {la : LogicalAddr} {len : Word32} {k : Status}
    (hf : s.fatal = false) (hseg : s.mode.seg = true)
    (h : segmentChecks (selOf la).toNat (offOf la) len (s.looking la len) =
      .raised k (s.looking la len)) : endsUnchanged (exec (.read la len) s) s k := by
  have failed : readTranslated (selOf la).toNat (offOf la) len
      (((s.accept 0).latchRead la len).latchSelector la) = .raised k (s.looking la len) := by
    rw [readTranslated, State.enter_segmentLookup, h, Res.bind_raised]
  rw [exec_read_translated hf hseg, failed]
  exact endsUnchanged_respond rfl k

/-- Settles O21: each check that fails raises its error in the state the checks began in. -/
theorem segmentLookupChecksComeFirst : Obligations.SegmentLookupChecksComeFirst := by
  intro s la len hf hseg
  refine ⟨fun h => ?_, fun hlt hpop => ⟨fun hoff => ?_, fun hoff hlen => ?_⟩⟩
  · exact exec_read_of_failed_check hf hseg (segmentChecks_of_unregistered h)
  · exact exec_read_of_failed_check hf hseg (segmentChecks_of_beyond hlt hpop hoff)
  · exact exec_read_of_failed_check hf hseg (segmentChecks_of_crossing hlt hpop hoff hlen)

/-! ## READ in segment mode (R125 to R129) -/

/-- The access of a READ in segment mode, where its bytes are inside ResidentMemory (R128, R129). -/
theorem readAccess_segment {sel : Nat} {off len : Word32} (hp : s.mode.pag = false)
    (hin : (s.seg sel).base.toNat + off.toNat + len.toNat ≤ s.cfg.memSize) :
    ∃ q : Seq, readAccess sel off len s = .ok () { s with seq := q } ∧
      q.result = Memory.readRange s.mem ((s.seg sel).base.toNat + off.toNat) len.toNat ∧
      q.reqOp = s.seq.reqOp := by
  obtain ⟨q, haccess, hresult, hop, -⟩ := readSegment_completes hin
  exact ⟨q, (if_neg (Bool.eq_false_iff.1 hp)).trans haccess, hresult, hop⟩

/-- The segment phase on a valid descriptor is one stamp (R125). -/
theorem segmentPhase_hit {sel : Nat} (hv : (s.seg sel).valid = true)
    (hroom : s.clock ≠ BitVec.allOnes 64) : segmentPhase sel s = .ok () (s.stampedAt sel) :=
  (segmentPhase_eq_ok _ _ _).2 ⟨s, .inl ⟨hv, rfl⟩, (stampSegment_eq_ok _ _ _ ()).2 ⟨hroom, rfl⟩⟩

theorem State.stampedAt_frame (s : State) (sel : Nat) :
    s.stampedAt sel = { s with clock := s.clock + 1, st := (s.stampedAt sel).st } := rfl

theorem State.stampedAt_seg_same (s : State) (sel : Nat) :
    (s.stampedAt sel).seg sel = { s.seg sel with ts := s.clock + 1 } := State.setSeg_seg_same _ _ _

theorem State.stampedAt_seg_other (s : State) {sel i : Nat} (h : i ≠ sel) :
    (s.stampedAt sel).seg i = s.seg i := State.setSeg_seg_other _ _ _ _ h

/-- Settles O23: one stamp of the descriptor, then one access at base + OFF. -/
theorem segmentHitReadsResidentBytes : Obligations.SegmentHitReadsResidentBytes := by
  intro s la len hf hseg hp hread hv hin hroom
  obtain ⟨-, -, -, hlen⟩ := id hread
  have hphase := segmentPhase_hit (s := s.looking la len) hv hroom
  have seg := (s.looking la len).stampedAt_seg_same (selOf la).toNat
  have frame := (s.looking la len).stampedAt_frame (selOf la).toNat
  have others (i : Nat) (hi : i ≠ (selOf la).toNat) := (s.looking la len).stampedAt_seg_other hi
  generalize (s.looking la len).stampedAt (selOf la).toNat = w at hphase seg frame others
  obtain ⟨q, haccess, hresult, hop⟩ := readAccess_segment (s := w) (sel := (selOf la).toNat)
    (off := offOf la) (len := len) (by rw [frame]; exact hp) (by
      rw [seg, frame]
      change (s.seg (selOf la).toNat).base.toNat + (offOf la).toNat + len.toNat ≤ s.cfg.memSize
      omega)
  have hw : w.seq.reqOp = 0 := by rw [frame]; rfl
  refine ⟨_, ⟨exec_read_completes hf hseg hread hphase haccess, rfl, rfl⟩, ?_, seg, others, ?_⟩
  · rw [frame]
    rfl
  · rw [response_data_of_read rfl (hop.trans hw), State.respond_result, hresult, seg, frame]
    exact bytesAt_readRange _ _ _

end
end Sys2Proof.Machine

namespace Sys2Proof.Machine

section
variable {s t u w : State}

theorem bytesAt_unique {get : Nat → Byte} {a n : Nat} {bytes bytes' : List Byte}
    (h : bytesAt get a n bytes) (h' : bytesAt get a n bytes') : bytes = bytes' := by
  obtain ⟨hlen, hbytes⟩ := h
  obtain ⟨hlen', hbytes'⟩ := h'
  refine List.ext_getElem? fun k => ?_
  by_cases hk : k < n
  · rw [hbytes k hk, hbytes' k hk]
  · rw [List.getElem?_eq_none (by omega), List.getElem?_eq_none (by omega)]

/-! ## What a READ that answers OK leaves (R125 to R130, R140) -/

theorem State.Inv.looking (h : s.Inv) (la : LogicalAddr) (len : Word32) :
    (s.looking la len).Working := h.working.of_seq rfl ⟨rfl, rfl, rfl⟩

theorem limit_ne_zero_of_readable {la : LogicalAddr} {len : Word32} (h : readable la len s) :
    (s.seg (selOf la).toNat).limit ≠ 0 := by
  obtain ⟨-, -, hoff, -⟩ := h
  intro h0
  rw [h0] at hoff
  exact absurd hoff (Nat.not_lt_zero _)

/-- The segment phase of a READ that passed its checks leaves a sound state with the segment valid, its registration kept (R125, R126). -/
theorem segmentPhase_ready (h : s.Inv) {la : LogicalAddr} {len : Word32}
    (hread : readable la len s)
    (hphase : segmentPhase (selOf la).toNat (s.looking la len) = .ok () w) :
    w.Working ∧ (w.seg (selOf la).toNat).valid = true ∧
      (s.looking la len).KeepsRegistrations (selOf la).toNat w :=
  (segmentPhase_stamps (h.looking la len) hread.1 hread.2.1 (limit_ne_zero_of_readable hread)
    (segmentPhase_room hphase)).of_ok hphase

/-- A READ keeps its own checks true, and leaves FATAL clear where it answers OK (R26, R120, R124). -/
theorem exec_read_again {la : LogicalAddr} {len : Word32} (hf : s.fatal = false)
    (hread : readable la len s) (ht : exec (.read la len) s = .next t)
    (hok : t.seq.status = .ok) : t.fatal = false ∧ t.mode = s.mode ∧ t.cfg = s.cfg ∧
      readable la len t ∧ (t.seg (selOf la).toNat).diskBase = (s.seg (selOf la).toNat).diskBase := by
  obtain ⟨hcfg, hmode, -, hseg, -⟩ := readKeepsRegistrations s t la len ht
  obtain ⟨hpop, hdisk, hlimit⟩ := hseg (selOf la).toNat
  obtain ⟨hlt, hpop', hoff, hlen⟩ := hread
  refine ⟨?_, hmode, hcfg, ⟨hcfg ▸ hlt, hpop.trans hpop', hlimit ▸ hoff, hlimit ▸ hlen⟩, hdisk⟩
  have fatal := exec_fatal_iff (.read la len) hf ht
  rw [hok] at fatal
  exact Bool.eq_false_iff.2 fun h => nomatch fatal.1 h

/-- A READ that answers OK in segment mode answers the bytes at base + OFF of the segment, valid now, as the memory holds them now (R125 to R129). -/
theorem exec_read_segment_ok (h : s.Inv) {la : LogicalAddr} {len : Word32}
    (hseg : s.mode.seg = true) (hp : s.mode.pag = false)
    (ht : exec (.read la len) s = .next t) (hok : t.seq.status = .ok) :
    (t.seg (selOf la).toNat).valid = true ∧ t.response.data = Memory.readRange t.mem
      ((t.seg (selOf la).toNat).base.toNat + (offOf la).toNat) len.toNat := by
  obtain ⟨hop, -⟩ := exec_read_ok ht hok
  obtain ⟨-, hread, w, u, hphase, haccess, rfl⟩ := exec_read_translated_ok hseg ht hok
  obtain ⟨-, hvalid, kept⟩ := segmentPhase_ready h hread hphase
  rw [readAccess, if_neg (by rw [kept.mode]; exact (Bool.eq_false_iff.1 hp :))] at haccess
  obtain ⟨hu, hresult, -⟩ := readSegment_inv haccess
  rw [response_data_of_read hok hop, State.respond_result, hresult, State.respond_seg,
    State.respond_mem, hu]
  exact ⟨hvalid, rfl⟩

/-- Settles O31: the segment is resident after a READ, so the next one hits and reads the same bytes. -/
theorem repeatedSegmentReadIsIdempotent : Obligations.RepeatedSegmentReadIsIdempotent := by
  intro s t la len hinv hseg hp ht hok hroom
  obtain ⟨hf, hread, -⟩ := exec_read_translated_ok hseg ht hok
  obtain ⟨hf', hmode, -, hread', -⟩ := exec_read_again hf hread ht hok
  obtain ⟨hvalid, hdata⟩ := exec_read_segment_ok hinv hseg hp ht hok
  have hinside := ((exec_inv hinv ht).sound.seg _ hread'.1 hvalid).1
  rw [State.regionSize_of_not_pag (by rw [hmode, hp])] at hinside
  obtain ⟨u, hends, hframe, -, -, hbytes⟩ := segmentHitReadsResidentBytes t la len hf'
    (by rw [hmode, hseg]) (by rw [hmode, hp]) hread' hvalid hinside hroom
  refine ⟨u, hends, ?_, by rw [hframe], by rw [hframe]⟩
  have status : u.response.status = t.response.status := hends.2.1.trans hok.symm
  have data : u.response.data = t.response.data :=
    bytesAt_unique hbytes (hdata ▸ bytesAt_readRange t.mem _ _)
  calc u.response = ⟨u.response.status, u.response.data⟩ := rfl
    _ = t.response := by rw [status, data]

/-! ## A translated READ of coherent copies (R76, R140) -/

/-- The resident bytes of coherent pages are the backing store's (R140). -/
theorem State.pagesCoherent.residentByte_eq (h : s.pagesCoherent) {a : Nat}
    (hv : a / s.cfg.pageSize < s.cfg.numVPages)
    (hr : (s.page (a / s.cfg.pageSize)).resident = true) :
    s.residentByte a = Memory.read s.cfg.disk a := by
  refine (h _ hv hr _ (Nat.mod_lt _ s.cfg.pageSize_pos)).trans ?_
  rw [Nat.mul_comm, Nat.div_add_mod]

/-- A chunk of coherent pages appends the backing store's bytes to RESULT (R130, R140). -/
theorem readChunk_reads_disk (h : s.Working) (hcoherent : s.pagesCoherent) {lin n : Nat}
    (hn : lin % s.cfg.pageSize + n ≤ s.cfg.pageSize) (hread : readChunk lin n s = .ok () t) :
    t.seq.result = s.seq.result ++ Memory.readRange s.cfg.disk lin n := by
  obtain ⟨-, loaded⟩ := readChunk_pagesCoherent h hcoherent hread
  obtain ⟨hcfg, hres, -⟩ := readChunk_pages hread
  obtain ⟨f, u, hensure, -⟩ := readChunk_inv hread
  obtain ⟨(hv : lin / s.cfg.pageSize < s.cfg.numVPages), -⟩ := ensurePage_found hensure
  rw [readChunk_result hn hread, Memory.readRange]
  refine congrArg _ (List.map_congr_left fun a ha => ?_)
  obtain ⟨hlow, hhigh⟩ := List.mem_range'_1.1 ha
  obtain ⟨hpage, -⟩ := page_offset_add (size := s.cfg.pageSize) (lin := lin) (k := a - lin)
    (by omega)
  rw [Nat.add_sub_cancel' hlow, ← hcfg] at hpage
  rw [← hcfg] at hres hv ⊢
  exact loaded.residentByte_eq (by rw [hpage]; exact hv) (by rw [hpage]; exact hres)

theorem readChunks_reads_disk (h : s.Working) (hcoherent : s.pagesCoherent)
    {turns lin remain : Nat} (hturns : remain ≤ turns)
    (hread : readChunks turns lin remain s = .ok () t) :
    t.seq.result = s.seq.result ++ Memory.readRange s.cfg.disk lin remain := by
  induction turns generalizing lin remain s with
  | zero =>
    obtain rfl : remain = 0 := by omega
    obtain ⟨-, rfl⟩ := Res.ok.inj hread
    simp [Memory.readRange]
  | succ turns ih =>
    unfold readChunks at hread
    split at hread
    next hzero =>
      subst hzero
      obtain ⟨-, rfl⟩ := Res.ok.inj hread
      simp [Memory.readRange]
    next hne =>
      obtain ⟨hpos, hle, hpage⟩ := chunkSize_bounds s.cfg lin (Nat.pos_of_ne_zero hne)
      dsimp only at hread
      generalize chunkSize s.cfg lin remain = n at hpos hle hpage hread
      obtain ⟨⟨⟩, u, hchunk, hrest⟩ := (Res.bind_eq_ok _ _ _ _).1 hread
      obtain ⟨hwork, hloaded⟩ := readChunk_pagesCoherent h hcoherent hchunk
      obtain ⟨hcfg, -⟩ := readChunk_pages hchunk
      have later := ih (s := u.advance (lin + n) (remain - n)) (hwork.of_seq rfl ⟨rfl, rfl, rfl⟩)
        hloaded (by omega) hrest
      rw [later, State.advance_cfg, hcfg]
      change u.seq.result ++ _ = _
      rw [readChunk_reads_disk h hcoherent hpage hchunk, List.append_assoc, Memory.readRange,
        Memory.readRange, Memory.readRange, ← List.map_append, List.range'_append_1,
        Nat.add_sub_cancel' hle]

/-- Settles O29: the segment phase leaves the copies coherent, and so does each chunk; the access reads them. -/
theorem translatedReadReturnsTheBackingStore :
    Obligations.TranslatedReadReturnsTheBackingStore := by
  intro s t la len hinv hcoherent hseg ht hok
  obtain ⟨hop, -⟩ := exec_read_ok ht hok
  obtain ⟨-, hread, w, u, hphase, haccess, rfl⟩ := exec_read_translated_ok hseg ht hok
  obtain ⟨hwork, hvalid, kept⟩ := segmentPhase_ready hinv hread hphase
  have looked : (s.looking la len).coherent := hcoherent
  have ready := segmentPhase_coherent (hinv.looking la len) looked hread.1
    (limit_ne_zero_of_readable hread) hphase
  obtain ⟨-, hdisk, hlimit⟩ := kept.seg (selOf la).toNat
  rw [State.looking_seg] at hdisk hlimit
  have hcfg : w.cfg = s.cfg := kept.cfg
  rw [response_data_of_read hok hop, State.respond_result]
  unfold readAccess at haccess
  split at haccess
  next hp =>
    have started : ((w.linear ((w.seg (selOf la).toNat).diskBase.toNat + (offOf la).toNat)
      len).setResult []).Working := (hwork.linear _ _).setResult _
    rw [readChunks_reads_disk started ((State.coherent_of_pag hp).1 ready) (le_refl _) haccess]
    change bytesAt _ _ _ ([] ++ Memory.readRange w.cfg.disk _ _)
    rw [List.nil_append, hcfg, hdisk]
    exact bytesAt_readRange _ _ _
  next hp =>
    obtain ⟨-, hbytes⟩ := (State.coherent_of_not_pag (by simpa using hp)).1 ready
    obtain ⟨-, hresult, -⟩ := readSegment_inv haccess
    rw [hresult]
    refine ⟨Memory.length_readRange _ _ _, fun k hk => ?_⟩
    have hlen := hread.2.2.2
    have same := hbytes (selOf la).toNat (hwork.sound.lt_of_valid hvalid) hvalid
      ((offOf la).toNat + k) (by rw [hlimit]; omega)
    rw [hcfg, hdisk, ← Nat.add_assoc, ← Nat.add_assoc] at same
    rw [Memory.getElem?_readRange _ _ _ _ hk, ← same]
    rfl

end
end Sys2Proof.Machine

namespace Sys2Proof.Machine

section
variable {s t u w : State}

/-! ## A READ that loads its segment (R126, R167) -/

/-- State `s` with segment `i` loaded at address `a`: its bytes, the two events, and the descriptor (R167). -/
def State.loadedAt (s : State) (i a : Nat) : State :=
  (({ s.emit (.bsRead (s.seg i).diskBase ((s.seg i).limit.setWidth 32)) with
    mem := Memory.write s.mem a (Memory.readRange s.cfg.disk (s.seg i).diskBase.toNat
      (s.seg i).limit.toNat) }).emit (.notice (toReg32 a) ((s.seg i).limit.setWidth 32))).setSeg i
    { s.seg i with base := toReg32 a, valid := true }

theorem State.loadedAt_trace (s : State) (i a : Nat) : (s.loadedAt i a).trace = s.trace ++
    [.bsRead (s.seg i).diskBase ((s.seg i).limit.setWidth 32),
      .notice (toReg32 a) ((s.seg i).limit.setWidth 32)] := by
  simp [State.loadedAt]

theorem State.loadedAt_seg_same (s : State) (i a : Nat) :
    (s.loadedAt i a).seg i = { s.seg i with base := toReg32 a, valid := true } :=
  State.setSeg_seg_same _ _ _

theorem State.loadedAt_seg_other (s : State) {i j : Nat} (a : Nat) (h : j ≠ i) :
    (s.loadedAt i a).seg j = s.seg j := State.setSeg_seg_other _ _ _ _ h

theorem State.loadedAt_byte_inside (s : State) (i a : Nat) {k : Nat}
    (hk : k < (s.seg i).limit.toNat) : (s.loadedAt i a).byte (a + k) =
      Memory.read s.cfg.disk ((s.seg i).diskBase.toNat + k) :=
  Memory.read_write_readRange _ _ _ _ _ _ hk

theorem State.loadedAt_byte_outside (s : State) (i a : Nat) {b : Nat}
    (hb : b < a ∨ a + (s.seg i).limit.toNat ≤ b) : (s.loadedAt i a).byte b = s.byte b :=
  Memory.read_write_outside _ _ _ _ (by rwa [Memory.length_readRange])

/-- SegmentLoad loads the segment where Allocate answers (R167). -/
theorem segmentLoad_of_allocate {i a : Nat} (hpos : 0 < (s.seg i).limit.toNat)
    (hsize : (s.seg i).limit.toNat ≤ s.cfg.memSize)
    (halloc : allocate (s.seg i).limit.toNat s = .ok a w) (hplaced : s.PlacedAt i a w)
    (hin : a + (s.seg i).limit.toNat ≤ w.cfg.memSize)
    (hdisk : (s.seg i).diskBase.toNat + (s.seg i).limit.toNat ≤ s.cfg.diskSize) :
    segmentLoad i s = .ok () (w.loadedAt i a) := by
  have nonempty : Memory.readRange w.cfg.disk (s.seg i).diskBase.toNat (s.seg i).limit.toNat ≠ [] :=
    List.ne_nil_of_length_pos (by rwa [Memory.length_readRange])
  refine (segmentLoad_eq_ok _ _ _).2 ⟨a, w, _, hsize, halloc, by rw [hplaced.cfg]; exact hdisk,
    (memWrite_eq_ok _ _ _ _ ()).2 ⟨by rw [Memory.length_readRange]; exact hin, rfl⟩, ?_⟩
  rw [if_neg nonempty, Memory.length_readRange, toReg32_limit, ← hplaced.diskBase, ← hplaced.limit]
  rfl

/-- The segment phase of a READ that loads its segment: Allocate, the load, one stamp (R126, R127, R167). -/
theorem segmentPhase_of_load {i a : Nat} (q : Seq) (hp : s.mode.pag = false)
    (hv : (s.seg i).valid = false) (hpos : 0 < (s.seg i).limit.toNat)
    (hsize : (s.seg i).limit.toNat ≤ s.cfg.memSize) (hroom : s.clock ≠ BitVec.allOnes 64)
    (hdisk : (s.seg i).diskBase.toNat + (s.seg i).limit.toNat ≤ s.cfg.diskSize)
    (halloc : allocate (s.seg i).limit.toNat s = .ok a w) (hplaced : s.PlacedAt i a w)
    (hin : a + (s.seg i).limit.toNat ≤ w.cfg.memSize) :
    ∃ q', segmentPhase i { s with seq := q } =
      .ok () ((({ w with seq := q' }).loadedAt i a).stampedAt i) ∧ q'.reqOp = q.reqOp := by
  have clock : w.clock = s.clock := by rw [(allocate_moves halloc).frame]
  generalize hq : (({ s with seq := q }).enter .segmentFault).seq = q'
  have placed : ({ s with seq := q' }).PlacedAt i a { w with seq := q' } :=
    ⟨hplaced.cfg, hplaced.mode, hplaced.valid, hplaced.populated, hplaced.diskBase,
      hplaced.limit, hplaced.free⟩
  have loaded := segmentLoad_of_allocate (s := { s with seq := q' }) hpos hsize
    (allocate_with_seq q' halloc) placed hin hdisk
  refine ⟨q', (segmentPhase_eq_ok _ _ _).2 ⟨_, .inr ⟨hv, ?_⟩,
    (stampSegment_eq_ok _ _ _ ()).2 ⟨clock ▸ hroom, rfl⟩⟩, by rw [← hq]; rfl⟩
  subst hq
  exact (if_neg (Bool.eq_false_iff.1 hp)).trans loaded

/-- State `t` is `s` after a READ loaded segment `i` at the place `a` that allocation left free in `w`: the load, one stamp, and the sequencer's registers (R126, R127, R167). -/
structure State.LoadsSegment (s : State) (i a : Nat) (w t : State) : Prop where
  frame : t = { s with
    seq := t.seq, clock := s.clock + 1, st := t.st, mem := t.mem, trace := t.trace }
  trace : t.trace = w.trace ++ [.bsRead (s.seg i).diskBase ((s.seg i).limit.setWidth 32),
    .notice (toReg32 a) ((s.seg i).limit.setWidth 32)]
  loaded : t.seg i = { s.seg i with base := toReg32 a, valid := true, ts := s.clock + 1 }
  others : ∀ j, j ≠ i → t.seg j = w.seg j
  inside : ∀ k < (s.seg i).limit.toNat, t.byte (a + k) =
    Memory.read s.cfg.disk ((s.seg i).diskBase.toNat + k)
  outside : ∀ b, b < a ∨ a + (s.seg i).limit.toNat ≤ b → t.byte b = w.byte b

/-- The load and the stamp, of a place that Allocate answered (R126, R165, R167). -/
theorem loadsSegment_of_rearranged {i a : Nat} (q : Seq) (hre : s.Rearranged w) :
    s.LoadsSegment i a w ((({ w with seq := q }).loadedAt i a).stampedAt i) := by
  obtain ⟨b, v, hseg, -⟩ := hre.seg i
  have cfg : w.cfg = s.cfg := hre.cfg
  have seg : ({ w with seq := q }).seg i = { s.seg i with base := b, valid := v } := hseg
  refine ⟨?frame, ?trace, ?loaded, fun j hj => ?others, fun k hk => ?inside, fun c hc => ?outside⟩
  case frame =>
    rw [hre.frame]
    rfl
  case trace =>
    have := ({ w with seq := q }).loadedAt_trace i a
    rw [seg] at this
    exact this
  case loaded =>
    rw [State.stampedAt_seg_same, State.loadedAt_seg_same, seg]
    exact congrArg (fun c : Stamp => ({ s.seg i with
      base := toReg32 a, valid := true, ts := c + 1 } : Descriptor)) hre.clock
  case others => exact (State.stampedAt_seg_other _ hj).trans (State.loadedAt_seg_other _ _ hj)
  case inside =>
    have := ({ w with seq := q }).loadedAt_byte_inside i a (k := k) (by rw [seg]; exact hk)
    rw [seg] at this
    exact cfg ▸ this
  case outside => exact State.loadedAt_byte_outside _ i a (by rw [seg]; exact hc)

/-- Settles O24: the fault places the segment where Allocate answers, in free space, loads it there and stamps it; the access then reads what was loaded. -/
theorem segmentFaultLoadsTheSegment : Obligations.SegmentFaultLoadsTheSegment := by
  intro s la len hinv hf hseg hp hread hv hsize hroom
  obtain ⟨hlt, hpop, -, hlen⟩ := id hread
  have hlimit := limit_ne_zero_of_readable hread
  have hpos := limit_pos hlimit
  have size := State.regionSize_of_not_pag hp (s.seg (selOf la).toNat)
  generalize hsel : (selOf la).toNat = sel at *
  obtain ⟨a, w, halloc, -, hplaced, hframe⟩ :=
    allocate_placedAt hinv.sound hlimit hv (by rw [size]; exact hsize)
  rw [size] at halloc
  have hre := allocate_rearranged hinv.sound hpos hsize halloc
  have carries := allocate_carriesRegions hinv.sound hp hsize halloc
  obtain ⟨-, moves, htrace, hmoves, -⟩ := allocate_moves halloc
  obtain ⟨hin, hapart⟩ := hplaced.free
  rw [size] at hin hapart
  have hbase := (toReg32_inside hinv.sound.params (hplaced.cfg ▸ hin)).2 hpos
  obtain ⟨q, hphase, hop⟩ := segmentPhase_of_load (s.lookingSeq la len) hp hv hpos hsize hroom
    (hinv.sound.disk sel hlt hpop) halloc hplaced hin
  have loads := loadsSegment_of_rearranged (i := sel) (a := a) q hre
  have op : (((({ w with seq := q }).loadedAt sel a).stampedAt sel)).seq.reqOp = 0 := hop
  generalize (({ w with seq := q }).loadedAt sel a).stampedAt sel = x at hphase loads op
  have hcfg : x.cfg = s.cfg := by rw [loads.frame]
  have base : (x.seg sel).base.toNat = a := by rw [loads.loaded]; exact hbase
  obtain ⟨r, haccess, hresult, hop'⟩ := readAccess_segment (s := x) (sel := sel)
    (off := offOf la) (len := len) (by rw [loads.frame]; exact hp) (by
      rw [base, hcfg]
      have := hplaced.cfg ▸ hin
      omega)
  rw [base] at hresult
  have answer := exec_read_completes hf hseg hread (hsel ▸ hphase) (hsel ▸ haccess)
  refine ⟨_, w, toReg32 a, moves, ⟨answer, rfl, rfl⟩, by rw [hbase]; exact halloc, htrace,
    loads.others, ?frame, loads.loaded, fun i hi => ?others, fun i hi hne hvi k hk => ?kept,
    ?trace, hmoves, fun k hk => ?inside, ?data⟩
  case frame =>
    rw [loads.frame]
    rfl
  case others =>
    obtain ⟨b, v, hseg, hvalid⟩ := hre.seg i
    exact ⟨b, v, (loads.others i hi).trans hseg, hvalid⟩
  case kept =>
    have hwi : x.seg i = w.seg i := loads.others i hne
    obtain ⟨-, -, hlim, -⟩ := hre.registration i
    have hvw : (w.seg i).valid = true := hwi ▸ hvi
    have hkw : k < (w.seg i).limit.toNat := hwi ▸ hk
    have away := hapart i (hplaced.cfg ▸ hi) hvw hpos
    rw [State.regionSize_of_not_pag (hplaced.mode ▸ hp)] at away
    have away' := away (Nat.zero_lt_of_lt hkw)
    change x.byte ((x.seg i).base.toNat + k) = _
    rw [hwi, loads.outside _ (by omega)]
    exact carries i hvw k (by rw [State.regionSize_of_not_pag hp, ← hlim]; exact hkw)
  case trace =>
    rw [← htrace]
    exact loads.trace
  case inside =>
    rw [hbase]
    exact loads.inside k hk
  case data =>
    rw [response_data_of_read rfl (hop'.trans op), State.respond_result, hresult]
    refine ⟨Memory.length_readRange _ _ _, fun k hk => ?_⟩
    rw [Memory.getElem?_readRange _ _ _ _ hk, Nat.add_assoc, Nat.add_assoc]
    exact congrArg some (loads.inside _ (by omega))

end
end Sys2Proof.Machine

namespace Sys2Proof.Machine

/-! ## The visits of a READ and the frames (R191 to R199) -/

section
variable {s t u : State} {la : LogicalAddr} {past visits : List PageVisit} {f g v w : Nat}

/-- A frame's last visit used that frame. -/
theorem lastVisit_frame {k : Nat} (h : lastVisit past f = some k) :
    ∃ r, past[k]? = some r ∧ r.frame = f := by
  have found := List.find?_some h
  simpa [Option.map_eq_some_iff] using found

/-- A frame is in use exactly where it holds some page. -/
theorem inUse_iff_heldBy : inUse s past f ↔ ∃ v, heldBy s past f v := by
  unfold inUse heldBy
  cases hl : lastVisit past f with
  | none => simp
  | some k =>
    obtain ⟨r, hr, -⟩ := lastVisit_frame hl
    simp [hr]

/-- A frame holds one page. -/
theorem heldBy_unique (h : heldBy s past f v) (h' : heldBy s past f w) : v = w := by
  unfold heldBy at h h'
  cases hl : lastVisit past f with
  | none =>
    rw [hl] at h h'
    exact h.2.symm.trans h'.2
  | some k =>
    rw [hl] at h h'
    exact Option.some.inj (h.symm.trans h')

theorem visitStamp_lt_iff (j k : Nat) : visitStamp s la j < visitStamp s la k ↔ j < k := by
  unfold visitStamp
  split <;> split <;> omega

/-- Visits that go as the rules say do so up to any place. -/
theorem visitFollows_of_append {rest : List PageVisit}
    (h : ∀ k r, (past ++ rest)[k]? = some r → visitFollows s la ((past ++ rest).take k) r) :
    ∀ k r, past[k]? = some r → visitFollows s la (past.take k) r := by
  intro k r hr
  obtain ⟨hk, -⟩ := List.getElem?_eq_some_iff.1 hr
  have := h k r (by rw [List.getElem?_append_left hk, hr])
  rwa [List.take_append_of_le_length hk.le] at this

/-- One more visit that goes as the rules say. -/
theorem visitFollows_append {r : PageVisit}
    (h : ∀ k r, past[k]? = some r → visitFollows s la (past.take k) r)
    (hr : visitFollows s la past r) :
    ∀ k r', (past ++ [r])[k]? = some r' → visitFollows s la ((past ++ [r]).take k) r' := by
  intro k r' hr'
  by_cases hk : k < past.length
  · rw [List.getElem?_append_left hk] at hr'
    rw [List.take_append_of_le_length hk.le]
    exact h k r' hr'
  · obtain ⟨hlt, -⟩ := List.getElem?_eq_some_iff.1 hr'
    rw [List.length_append, List.length_singleton] at hlt
    obtain rfl : k = past.length := by omega
    rw [List.getElem?_concat_length, Option.some.injEq] at hr'
    rw [List.take_left, ← hr']
    exact hr

/-! ### The least recently used frame (R195, R199) -/

/-- Frames whose last visits stand at place `m` or later are no more than the visits from there on: each visit used one frame. -/
theorem frames_le_visits {m n : Nat} (h : ∀ g < n, ∃ j, m ≤ j ∧ lastVisit past g = some j) :
    n ≤ past.length - m := by
  have into : Set.MapsTo (fun g => (lastVisit past g).getD 0) (Finset.range n)
      (Finset.Ico m past.length) := by
    intro g hg
    obtain ⟨j, hm, hj⟩ := h g (by simpa using hg)
    have := lastVisit_lt past g j hj
    simp [hj]
    omega
  have apart : Set.InjOn (fun g => (lastVisit past g).getD 0) (Finset.range n) := by
    intro g hg g' hg' heq
    obtain ⟨j, -, hj⟩ := h g (by simpa using hg)
    obtain ⟨j', -, hj'⟩ := h g' (by simpa using hg')
    obtain ⟨r, hr, rfl⟩ := lastVisit_frame hj
    obtain ⟨r', hr', rfl⟩ := lastVisit_frame hj'
    simp only [hj, hj', Option.getD_some] at heq
    rw [heq, hr'] at hr
    rw [Option.some.inj hr]
  simpa using Finset.card_le_card_of_injOn _ into apart

/-- A frame older than none of those used since place `m` was used since then too (R195, R199). -/
theorem lastVisit_of_stampAfter_le {j : Nat} (hs : s.Sound) (hg : g < s.cfg.numFrames)
    (hj : lastVisit past f = some j) (hle : stampAfter s la past f ≤ stampAfter s la past g) :
    ∃ k, j ≤ k ∧ lastVisit past g = some k := by
  unfold stampAfter at hle
  rw [hj] at hle
  cases hl : lastVisit past g with
  | none =>
    rw [hl] at hle
    have old : (s.frame g).ts.toNat ≤ s.clock.toNat := (hs.fields.2.2 g hg).2
    simp only [visitStamp] at hle
    omega
  | some k =>
    rw [hl] at hle
    exact ⟨k, not_lt.1 fun hlt => absurd ((visitStamp_lt_iff k j).2 hlt) (not_lt.2 hle), rfl⟩

/-- Of visits that go as the rules say, those from place `m` on leave their pages where they brought them, if they are no more than there are frames: a page fault evicts the least recently used page, and while one of theirs is that, they have used every frame (R195, R199). -/
theorem visits_held {m : Nat} (hs : s.Sound)
    (hfollows : ∀ k r, visits[k]? = some r → visitFollows s la (visits.take k) r)
    (hlen : visits.length ≤ m + s.cfg.numFrames) (k : Nat) (r : PageVisit) (hm : m ≤ k)
    (hr : visits[k]? = some r) :
    heldBy s visits r.frame r.page ∧ ∃ j, m ≤ j ∧ lastVisit visits r.frame = some j := by
  induction visits using List.reverseRecOn generalizing k r with
  | nil => nomatch hr
  | append_singleton past r' ih =>
    have hlast : visitFollows s la past r' := by
      have := hfollows past.length r' List.getElem?_concat_length
      rwa [List.take_left] at this
    rw [List.length_append, List.length_singleton] at hlen
    rw [heldBy_append, lastVisit_append]
    by_cases hk : k < past.length
    · rw [List.getElem?_append_left hk] at hr
      obtain ⟨hheld, j, hj, hjlast⟩ := ih (visitFollows_of_append hfollows) (by omega) k r hm hr
      by_cases hframe : r'.frame = r.frame
      · rw [if_pos hframe, if_pos hframe]
        refine ⟨?_, past.length, by omega, rfl⟩
        obtain ⟨-, hhit, hfault⟩ := hlast
        cases hr' : r'.fault with
        | false => exact heldBy_unique (hframe ▸ hhit hr') hheld
        | true =>
          exfalso
          obtain ⟨-, ⟨hfree, -⟩ | hold⟩ := hfault hr'
          · exact hfree (inUse_iff_heldBy.2 ⟨_, hframe ▸ hheld⟩)
          · have := frames_le_visits (m := m) (n := s.cfg.numFrames) (past := past) fun g hg => by
              obtain ⟨-, hle⟩ := hold g hg
              obtain ⟨k, hjk, hk⟩ := lastVisit_of_stampAfter_le (la := la) (f := r'.frame) hs hg
                (by rw [hframe]; exact hjlast) (by omega)
              exact ⟨k, by omega, hk⟩
            omega
      · rw [if_neg hframe, if_neg hframe]
        exact ⟨hheld, j, hj, hjlast⟩
    · obtain ⟨hlt, -⟩ := List.getElem?_eq_some_iff.1 hr
      rw [List.length_append, List.length_singleton] at hlt
      obtain rfl : k = past.length := by omega
      rw [List.getElem?_concat_length, Option.some.injEq] at hr
      rw [if_pos (by rw [hr]), if_pos (by rw [hr])]
      exact ⟨by rw [hr], _, hm, rfl⟩

end
end Sys2Proof.Machine

namespace Sys2Proof.Machine

section
variable {s t u : State} {la : LogicalAddr} {past : List PageVisit} {v f : Nat}

/-! ## One visit of a page (R191 to R199) -/

/-- State `u` is `t` after one call of `EnsurePage` for page `v`, which answered frame `f`: a hit, or a page fault (R191 to R199). -/
structure State.VisitsPage (t : State) (v f : Nat) (fault : Bool) (u : State) : Prop where
  cfg : u.cfg = t.cfg
  clock : u.clock.toNat = t.clock.toNat + 1
  trace : u.trace = t.trace ++ visitEvents t.cfg ⟨v, f, fault⟩
  frame : u.frame f = ⟨true, v, u.clock⟩
  frames : ∀ g, g ≠ f → u.frame g = t.frame g
  entry : (u.page v).resident = true ∧ (u.page v).frame = f
  pages : ∀ w, w ≠ v → (u.page w).resident = true → u.page w = t.page w
  kept : ∀ a, (fault = true → a / t.cfg.pageSize ≠ f) → u.byte a = t.byte a
  loaded : fault = true → ∀ k < t.cfg.pageSize, u.byte (f * t.cfg.pageSize + k) =
    Memory.read t.cfg.disk (v * t.cfg.pageSize + k)
  hit : fault = false → (t.page v).resident = true ∧ (t.page v).frame = f ∧
    (t.frame f).resident = true ∧ (t.frame f).owner = v
  miss : fault = true → (t.page v).resident = false ∧ t.prefersFrame f

/-- A hit is a visit of its page (R192, R199). -/
theorem visitsPage_of_hit (hroom : t.clock ≠ BitVec.allOnes 64) (hres : (t.page v).resident = true)
    (hframe : (t.page v).frame = f) (hheld : (t.frame f).resident = true)
    (howner : (t.frame f).owner = v) : t.VisitsPage v f false
      (({ t with clock := t.clock + 1 }).setFrame f { t.frame f with ts := t.clock + 1 }) where
  cfg := rfl
  clock := clock_succ t.clock hroom
  trace := (List.append_nil _).symm
  frame := by simp [hheld, howner]
  frames _ hg := State.setFrame_frame_other _ _ _ _ hg
  entry := ⟨hres, hframe⟩
  pages _ _ _ := rfl
  kept _ _ := rfl
  loaded := nofun
  hit _ := ⟨hres, hframe, hheld, howner⟩
  miss := nofun

/-- A page fault, stamped, is a visit of its page (R198, R199). -/
theorem visitsPage_of_loads (hroom : t.clock ≠ BitVec.allOnes 64) (hres : (t.page v).resident = false)
    (h : t.LoadsPage v f u) : t.VisitsPage v f true
      (({ u with clock := t.clock + 1 }).setFrame f { u.frame f with ts := t.clock + 1 }) where
  cfg := by rw [State.setFrame_cfg, h.frame]
  clock := clock_succ t.clock hroom
  trace := by rw [State.setFrame_trace, h.frame]
  frame := by simp [h.held]
  frames g hg := (State.setFrame_frame_other _ _ _ _ hg).trans (h.frames g hg)
  entry := h.entry
  pages := h.pages
  kept a ha := h.kept a (ha rfl)
  loaded _ := h.loaded
  hit := nofun
  miss _ := ⟨hres, h.chosen⟩

/-- Entering PAGE_FAULT is no part of what a visit does to tables and memory. -/
theorem State.LoadsPage.of_seq {q : Seq} (h : ({ t with seq := q }).LoadsPage v f u) :
    t.LoadsPage v f { u with seq := t.seq } := by
  refine ⟨h.chosen, ?_, h.entry, h.held, h.pages, h.frames, h.loaded, h.kept⟩
  rw [h.frame]

/-- `EnsurePage` that completes is a visit of its page, with a page fault exactly where the page is not resident (R191). -/
theorem ensurePage_visitsPage {visit : Bool} (h : ensurePage visit v t = .ok f u) :
    t.VisitsPage v f (!(t.page v).resident) u := by
  obtain ⟨x, rfl, hroom, ⟨hres, hf, hheld, howner, rfl⟩ | ⟨hres, hloads⟩⟩ :=
    ensurePage_hit_or_loads h
  · rw [hres]
    exact visitsPage_of_hit hroom hres hf.symm hheld howner
  · rw [hres]
    have loads : ∃ q, ({ t with seq := q }).LoadsPage v f x := by
      cases visit with
      | true => exact ⟨(t.enter .pageFault).seq, hloads⟩
      | false => exact ⟨t.seq, hloads⟩
    obtain ⟨q, hq⟩ := loads
    have visited := visitsPage_of_loads hroom hres hq.of_seq
    exact { visited with }

/-! ## The states a READ's visits lead through -/

/-- The byte that a READ gets from address `a` after the visits `past` from state `s` on: the backing store's where a visit loaded its page, else the one its page's frame held before (R130, R198). -/
def State.sourceByte (s : State) (past : List PageVisit) (a : Nat) : Byte :=
  if ∃ r ∈ past, r.page = a / s.cfg.pageSize ∧ r.fault = true then Memory.read s.cfg.disk a
  else s.residentByte a

theorem State.sourceByte_nil (s : State) (a : Nat) : s.sourceByte [] a = s.residentByte a :=
  if_neg nofun

/-- Visits that load no page of `a` change nothing about its byte. -/
theorem State.sourceByte_append {rest : List PageVisit} {a : Nat}
    (h : ∀ r ∈ rest, r.page = a / s.cfg.pageSize → r.fault = false) :
    s.sourceByte (past ++ rest) a = s.sourceByte past a := by
  have same : (∃ r ∈ past ++ rest, r.page = a / s.cfg.pageSize ∧ r.fault = true) ↔
      ∃ r ∈ past, r.page = a / s.cfg.pageSize ∧ r.fault = true := by
    constructor
    · rintro ⟨r, hr, hpage, hfault⟩
      obtain hr | hr := List.mem_append.1 hr
      · exact ⟨r, hr, hpage, hfault⟩
      · simp [h r hr hpage] at hfault
    · rintro ⟨r, hr, hrest⟩
      exact ⟨r, List.mem_append_left _ hr, hrest⟩
  unfold State.sourceByte
  simp only [same]

/-- A visit that loads the page of `a` makes its byte the backing store's. -/
theorem State.sourceByte_loaded {a : Nat} (h : ∃ r ∈ past, r.page = a / s.cfg.pageSize ∧
    r.fault = true) : s.sourceByte past a = Memory.read s.cfg.disk a := if_pos h

/-- The frames, the memory and the trace of state `t` are what the visits `past` of a READ make of state `s` (R191 to R199). -/
structure State.Visited (s : State) (la : LogicalAddr) (past : List PageVisit) (t : State) :
    Prop where
  cfg : t.cfg = s.cfg
  follows : ∀ k r, past[k]? = some r → visitFollows s la (past.take k) r
  trace : t.trace = s.trace ++ past.flatMap (visitEvents s.cfg)
  stamps : ∀ f < s.cfg.numFrames, (t.frame f).ts.toNat = stampAfter s la past f
  held : ∀ f < s.cfg.numFrames, ∀ v, heldBy s past f v ↔
    (t.frame f).resident = true ∧ (t.frame f).owner = v
  kept : ∀ a, (∀ r ∈ past, r.frame = a / s.cfg.pageSize → r.fault = false) → t.byte a = s.byte a
  loaded : ∀ r ∈ past, r.fault = true → ∀ v, heldBy s past r.frame v →
    ∀ k < s.cfg.pageSize, t.byte (r.frame * s.cfg.pageSize + k) =
      Memory.read s.cfg.disk (v * s.cfg.pageSize + k)
  bytes : ∀ a, a / s.cfg.pageSize < s.cfg.numVPages →
    (t.page (a / s.cfg.pageSize)).resident = true → t.residentByte a = s.sourceByte past a

/-- Before the first visit. -/
theorem State.Visited.nil (hcfg : t.cfg = s.cfg) (htrace : t.trace = s.trace)
    (hrpt : t.rpt = s.rpt) (hmem : t.mem = s.mem)
    (hpage : ∀ v, (t.page v).frame = (s.page v).frame) : s.Visited la [] t := by
  have frame (f : Nat) : t.frame f = s.frame f := by rw [State.frame, hrpt]; rfl
  have byte (a : Nat) : t.byte a = s.byte a := by rw [State.byte, hmem]; rfl
  refine ⟨hcfg, nofun, by simp [htrace], fun f _ => by rw [frame]; rfl, fun f _ v => by
    rw [frame]; rfl, fun a _ => byte a, nofun, fun a _ _ => ?_⟩
  rw [State.sourceByte_nil, State.residentByte, State.residentByte, hpage, hcfg, byte]

/-- The sequencer's registers are no part of what the visits make. -/
theorem State.Visited.with_seq (h : s.Visited la past t) (q : Seq) :
    s.Visited la past { t with seq := q } := { h with }

/-- After the visits a frame is in use exactly where it holds a page (R194). -/
theorem State.Visited.inUse_iff (h : s.Visited la past t) (hf : f < s.cfg.numFrames) :
    inUse s past f ↔ (t.frame f).resident = true := by
  rw [inUse_iff_heldBy]
  simp only [h.held f hf, exists_and_left, exists_eq', and_true]

/-- A page is resident after the visits exactly where a frame holds it (R43). -/
theorem State.Visited.resident_of_heldBy (h : s.Visited la past t) (ht : t.Sound)
    (hf : f < s.cfg.numFrames) (hheld : heldBy s past f v) :
    (t.page v).resident = true ∧ (t.page v).frame = f := by
  obtain ⟨hres, rfl⟩ := (h.held f hf v).1 hheld
  obtain ⟨-, hpage⟩ := ht.page.2 f (h.cfg ▸ hf) hres
  exact hpage

theorem State.Visited.heldBy_of_resident (h : s.Visited la past t) (ht : t.Sound)
    (hv : v < s.cfg.numVPages) (hres : (t.page v).resident = true) :
    (t.page v).frame < s.cfg.numFrames ∧ heldBy s past (t.page v).frame v := by
  obtain ⟨hlt, hheld⟩ := ht.page.1 v (h.cfg ▸ hv) hres
  rw [h.cfg] at hlt
  exact ⟨hlt, (h.held _ hlt v).2 hheld⟩

/-- A visit of a page goes as the rules say after the visits before it (R191, R194, R195). -/
theorem State.Visited.visitFollows (h : s.Visited la past t) (ht : t.Sound) {fault : Bool}
    (hvisit : t.VisitsPage v f fault u) (hf : f < s.cfg.numFrames) :
    visitFollows s la past ⟨v, f, fault⟩ := by
  refine ⟨hf, fun hhit => ?_, fun hmiss => ?_⟩
  · obtain ⟨-, -, hheld⟩ := hvisit.hit hhit
    exact (h.held f hf v).2 hheld
  obtain ⟨hres, hprefers⟩ := hvisit.miss hmiss
  refine ⟨fun g hg hheld => ?_, hprefers.imp (fun hfree => ?_) fun hold g hg => ?_⟩
  · rw [(h.resident_of_heldBy ht hg hheld).1] at hres
    nomatch hres
  · obtain ⟨hempty, hlower⟩ := hfree
    refine ⟨fun hin => ?_, fun g hg => (h.inUse_iff (Nat.lt_trans hg hf)).2 (hlower g hg)⟩
    rw [(h.inUse_iff hf).1 hin] at hempty
    nomatch hempty
  · obtain ⟨hin, hbefore⟩ := hold g (h.cfg ▸ hg)
    rw [State.frameBefore, h.stamps f hf, h.stamps g hg] at hbefore
    exact ⟨(h.inUse_iff hg).2 hin, hbefore⟩

/-- After one more visit the resident bytes come from where the visits say (R130, R198). -/
theorem State.Visited.residentByte_append (h : s.Visited la past t) (hu : u.Sound) {fault : Bool}
    (hvisit : t.VisitsPage v f fault u) {a : Nat} (ha : a / s.cfg.pageSize < s.cfg.numVPages)
    (hres : (u.page (a / s.cfg.pageSize)).resident = true) :
    u.residentByte a = s.sourceByte (past ++ [⟨v, f, fault⟩]) a := by
  have cfg : u.cfg = s.cfg := hvisit.cfg.trans h.cfg
  have hk : a % s.cfg.pageSize < s.cfg.pageSize := Nat.mod_lt _ s.cfg.pageSize_pos
  by_cases hv : a / s.cfg.pageSize = v ∧ fault = true
  · obtain ⟨hv, rfl⟩ := hv
    have bytes := hvisit.loaded rfl (a % s.cfg.pageSize) (h.cfg ▸ hk)
    rw [h.cfg, ← hv, Nat.mul_comm (a / s.cfg.pageSize), Nat.div_add_mod] at bytes
    rw [State.sourceByte_loaded ⟨_, List.mem_append_right _ (List.mem_singleton_self _), hv.symm,
      rfl⟩, State.residentByte, cfg, hv, hvisit.entry.2]
    exact bytes
  · obtain ⟨hbefore, hframe⟩ : (t.page (a / s.cfg.pageSize)).resident = true ∧
        (u.page (a / s.cfg.pageSize)).frame = (t.page (a / s.cfg.pageSize)).frame := by
      by_cases hpage : a / s.cfg.pageSize = v
      · obtain ⟨hin, hf, -⟩ := hvisit.hit (by simpa [hpage] using hv)
        rw [hpage, hf]
        exact ⟨hin, hvisit.entry.2⟩
      · have same := hvisit.pages _ hpage hres
        exact ⟨same ▸ hres, by rw [same]⟩
    have elsewhere (hfault : fault = true) : (u.page (a / s.cfg.pageSize)).frame ≠ f := by
      intro hf
      obtain ⟨-, -, howner⟩ := hu.page.1 _ (cfg ▸ ha) hres
      rw [hf, hvisit.frame] at howner
      exact hv ⟨howner.symm, hfault⟩
    have byte := hvisit.kept ((u.page (a / s.cfg.pageSize)).frame * s.cfg.pageSize +
      a % s.cfg.pageSize) fun hfault => by
        rw [h.cfg, Nat.mul_comm, Nat.mul_add_div s.cfg.pageSize_pos, Nat.div_eq_of_lt hk]
        exact elsewhere hfault
    rw [State.sourceByte_append fun r hr hpage => by
      obtain rfl := List.mem_singleton.1 hr
      simpa [hpage.symm] using hv]
    rw [← h.bytes a ha hbefore, State.residentByte, State.residentByte, cfg, h.cfg, byte, hframe]

/-- One more visit (R191 to R199). -/
theorem State.Visited.append (h : s.Visited la past t) (ht : t.Sound) (hu : u.Sound) {fault : Bool}
    (hvisit : t.VisitsPage v f fault u) (hf : f < s.cfg.numFrames)
    (hclock : t.clock.toNat + 1 = visitStamp s la past.length) :
    s.Visited la (past ++ [⟨v, f, fault⟩]) u where
  cfg := hvisit.cfg.trans h.cfg
  follows := visitFollows_append h.follows (h.visitFollows ht hvisit hf)
  trace := by
    rw [hvisit.trace, h.trace, h.cfg, List.flatMap_append, List.append_assoc, List.flatMap_singleton]
  stamps g hg := by
    rw [stampAfter_append]
    split
    next heq =>
      obtain rfl : f = g := heq
      rw [hvisit.frame, ← hclock]
      exact hvisit.clock
    next hne => rw [hvisit.frames g (Ne.symm hne), h.stamps g hg]
  held g hg w := by
    rw [heldBy_append]
    split
    next heq =>
      obtain rfl : f = g := heq
      simp [hvisit.frame]
    next hne => rw [hvisit.frames g (Ne.symm hne), h.held g hg]
  kept a ha := by
    refine (hvisit.kept a fun hfault heq => ?_).trans
      (h.kept a fun r hr => ha r (List.mem_append_left _ hr))
    rw [h.cfg] at heq
    have := ha ⟨v, f, fault⟩ (List.mem_append_right _ (List.mem_singleton_self _)) heq.symm
    simp [hfault] at this
  loaded r hr hfault w hheld k hk := by
    rw [heldBy_append] at hheld
    have place : (r.frame * s.cfg.pageSize + k) / s.cfg.pageSize = r.frame := by
      rw [Nat.mul_comm, Nat.mul_add_div s.cfg.pageSize_pos, Nat.div_eq_of_lt hk, Nat.add_zero]
    have before (hr : r ∈ past) (hin : heldBy s past r.frame w)
        (hne : fault = true → r.frame ≠ f) := (hvisit.kept (r.frame * s.cfg.pageSize + k)
      (by rwa [h.cfg, place])).trans (h.loaded r hr hfault w hin k hk)
    split at hheld
    next heq =>
      obtain rfl : f = r.frame := heq
      obtain rfl : v = w := hheld
      cases fault with
      | true => simpa only [h.cfg] using hvisit.loaded rfl k (h.cfg ▸ hk)
      | false =>
        obtain ⟨-, -, hin⟩ := hvisit.hit rfl
        refine before ((List.mem_append.1 hr).resolve_right fun hlast => ?_)
          ((h.held _ hf v).2 hin) nofun
        rw [List.mem_singleton.1 hlast] at hfault
        nomatch hfault
    next hne =>
      refine before ((List.mem_append.1 hr).resolve_right fun hlast => hne ?_) hheld
        fun _ heq => hne heq.symm
      rw [List.mem_singleton.1 hlast]
  bytes a ha hres := h.residentByte_append hu hvisit ha hres

end
end Sys2Proof.Machine

namespace Sys2Proof.Machine

section
variable {s t u w : State} {la : LogicalAddr} {len : Word32} {past vs vs' : List PageVisit} {v f : Nat}

/-! ## Runs of visits (R130, R168) -/

/-- From state `t`, which the visits `past` of a READ led to from `s`, the visits `vs` lead on to `u`, each with one stamp. -/
structure State.VisitsOn (s : State) (la : LogicalAddr) (past vs : List PageVisit) (t u : State) :
    Prop where
  visited : s.Visited la (past ++ vs) u
  repaged : t.Repaged u
  working : u.Working
  clock : u.clock.toNat = t.clock.toNat + vs.length

theorem State.VisitsOn.nil (h : s.Visited la past t) (ht : t.Working) :
    s.VisitsOn la past [] t t :=
  ⟨by rwa [List.append_nil], ⟨rfl, fun _ => rfl⟩, ht, rfl⟩

theorem State.VisitsOn.trans (h : s.VisitsOn la past vs t u)
    (h' : s.VisitsOn la (past ++ vs) vs' u w) : s.VisitsOn la past (vs ++ vs') t w where
  visited := by rw [← List.append_assoc]; exact h'.visited
  repaged := h.repaged.trans h'.repaged
  working := h'.working
  clock := by rw [h'.clock, h.clock, List.length_append, Nat.add_assoc]

/-- `EnsurePage` is one visit (R191). -/
theorem State.Visited.visitsOn (h : s.Visited la past t) (ht : t.Working)
    (hclock : t.clock.toNat + 1 = visitStamp s la past.length) {visit : Bool}
    (hensure : ensurePage visit v t = .ok f u) :
    s.VisitsOn la past [⟨v, f, !(t.page v).resident⟩] t u := by
  obtain ⟨hv, hpop⟩ := ensurePage_found hensure
  obtain ⟨hf, hre, hwork⟩ := (ensurePage_stamps ht visit hv hpop).of_ok hensure
  have hvisit := ensurePage_visitsPage hensure
  exact ⟨h.append ht.sound hwork.sound hvisit (h.cfg ▸ hf) hclock, hre, hwork, hvisit.clock⟩

/-- The stamps of a registration's visits follow CLOCK one by one (R131, R168). -/
theorem visitStamp_of_lt {k : Nat} (h : k < registeredPages s la) :
    visitStamp s la k = s.clock.toNat + k + 1 := by
  rw [visitStamp, if_neg (not_le.2 h), Nat.add_zero]

/-- Behind the registration the descriptor's own stamp stands between (R126, R131). -/
theorem visitStamp_of_le {k : Nat} (h : registeredPages s la ≤ k) :
    visitStamp s la k = s.clock.toNat + k + 1 + 1 := by
  rw [visitStamp, if_pos h]

/-- The pages of a registration are visited in order (R168). -/
theorem loadPages_visitsOn {n : Nat} (h : s.Visited la past t) (ht : t.Working)
    (hclock : t.clock.toNat = s.clock.toNat + past.length)
    (hreg : past.length + n ≤ registeredPages s la) (hload : loadPages n v t = .ok () u) :
    ∃ vs, vs.map PageVisit.page = List.range' v n ∧ s.VisitsOn la past vs t u := by
  induction n generalizing v t past with
  | zero =>
    obtain ⟨-, rfl⟩ := Res.ok.inj hload
    exact ⟨[], rfl, .nil h ht⟩
  | succ n ih =>
    obtain ⟨f, x, hensure, hrest⟩ := (Res.bind_eq_ok _ _ _ _).1 hload
    have first := h.visitsOn ht (by rw [hclock, visitStamp_of_lt (by omega)]) hensure
    obtain ⟨vs, hpages, rest⟩ := ih first.visited first.working
      (by rw [first.clock, hclock, List.length_append, Nat.add_assoc])
      (by rw [List.length_append, List.length_singleton]; omega) hrest
    exact ⟨_ :: vs, by rw [List.map_cons, hpages, List.range'_succ], first.trans rest⟩

/-- The visits of the chunks of a paged READ, with the path they take and the bytes they read (R121, R130). -/
structure State.ChunkVisits (s : State) (la : LogicalAddr) (past vs : List PageVisit)
    (lin n : Nat) (t u : State) : Prop where
  pages : vs.map PageVisit.page = List.range' (lin / s.cfg.pageSize) (chunkCount s.cfg lin n)
  run : s.VisitsOn la past vs t u
  path : u.seq.path = t.seq.path ++ vs.flatMap fun r => chunkPath r.fault
  result : u.seq.result =
    t.seq.result ++ (List.range' lin n).map (s.sourceByte (past ++ vs))

theorem State.ChunkVisits.nil (h : s.Visited la past t) (ht : t.Working) (lin : Nat) :
    s.ChunkVisits la past [] lin 0 t t := ⟨rfl, .nil h ht, by simp, by simp⟩

/-- The addresses of a chunk are of one page (R130). -/
theorem page_of_chunk {size lin n a : Nat} (hn : lin % size + n ≤ size)
    (ha : a ∈ List.range' lin n) : a / size = lin / size := by
  obtain ⟨hlow, hhigh⟩ := List.mem_range'_1.1 ha
  obtain ⟨hpage, -⟩ := page_offset_add (size := size) (lin := lin) (k := a - lin) (by omega)
  rwa [Nat.add_sub_cancel' hlow] at hpage

/-- One chunk is one visit of its page, and reads what that visit left in its frame (R130). -/
theorem readChunk_visit (h : s.Visited la past t) (ht : t.Working)
    (hclock : t.clock.toNat + 1 = visitStamp s la past.length) {lin n : Nat}
    (hn : lin % s.cfg.pageSize + n ≤ s.cfg.pageSize) (hread : readChunk lin n t = .ok () u) :
    ∃ r, r.page = lin / s.cfg.pageSize ∧ s.VisitsOn la past [r] t u ∧
      u.seq.path = t.seq.path ++ chunkPath r.fault ∧
      u.seq.result = t.seq.result ++ (List.range' lin n).map (s.sourceByte (past ++ [r])) := by
  rw [← h.cfg] at hn
  obtain ⟨f, x, hensure, -, hu, -⟩ := readChunk_inv hread
  obtain ⟨(hv : lin / t.cfg.pageSize < t.cfg.numVPages), hpop⟩ := ensurePage_found hensure
  have looked := ht.lookup (Nat.lt_of_div_lt_div hv)
  obtain ⟨hre, hwork⟩ := (readChunk_stamps ht (Nat.lt_of_div_lt_div hv) hn hpop).of_ok hread
  have visit := (h.with_seq (t.lookup lin).seq).visitsOn looked hclock hensure
  have visited := visit.visited.with_seq u.seq
  rw [← show u = { x with seq := u.seq } from hu] at visited
  obtain ⟨hcfg, hres, -⟩ := readChunk_pages hread
  refine ⟨_, by rw [← h.cfg], ⟨visited, hre, hwork, ?clock⟩, readChunk_path hread, ?result⟩
  case clock =>
    rw [hu]
    exact visit.clock
  case result =>
    rw [readChunk_result hn hread]
    refine congrArg _ (List.map_congr_left fun a ha => ?_)
    have hpage := page_of_chunk hn ha
    rw [h.cfg] at hpage hv hres
    exact visited.bytes a (hpage ▸ hv) (hpage ▸ hres)

end
end Sys2Proof.Machine

namespace Sys2Proof.Machine

section
variable {s t u w : State} {la : LogicalAddr} {past vs : List PageVisit} {r : PageVisit}
  {lin n : Nat}

/-! ## The chunks of a paged READ as visits (R121, R130) -/

theorem State.VisitsOn.of_seq {q : Seq} (h : s.VisitsOn la past vs { t with seq := q } u) :
    s.VisitsOn la past vs t u :=
  ⟨h.visited, ⟨by rw [h.repaged.frame], h.repaged.populated⟩, h.working, h.clock⟩

theorem State.ChunkVisits.of_seq {q : Seq} (h : s.ChunkVisits la past vs lin n { t with seq := q } u)
    (hpath : q.path = t.seq.path) (hresult : q.result = t.seq.result) :
    s.ChunkVisits la past vs lin n t u :=
  ⟨h.pages, h.run.of_seq, hpath ▸ h.path, hresult ▸ h.result⟩

/-- Each of the chunks that follow is of a later page (R130). -/
theorem State.ChunkVisits.later_page
    (h : s.ChunkVisits la past vs (lin + chunkSize s.cfg lin n) (n - chunkSize s.cfg lin n) t u)
    (hr : r ∈ vs) : lin / s.cfg.pageSize < r.page := by
  have hpage := List.mem_map_of_mem (f := PageVisit.page) hr
  rw [h.pages] at hpage
  obtain ⟨hlow, hhigh⟩ := List.mem_range'_1.1 hpage
  have rest : 0 < n - chunkSize s.cfg lin n := by
    by_contra hzero
    rw [Nat.eq_zero_of_not_pos hzero, chunkCount, if_pos rfl] at hhigh
    omega
  rw [chunkSize_next s.cfg rest] at hlow
  omega

/-- A first chunk, and the chunks of what is left after it (R130). -/
theorem State.ChunkVisits.cons (hn : 0 < n) (hpage : r.page = lin / s.cfg.pageSize)
    (hrun : s.VisitsOn la past [r] t u) (hpath : u.seq.path = t.seq.path ++ chunkPath r.fault)
    (hresult : u.seq.result = t.seq.result ++
      (List.range' lin (chunkSize s.cfg lin n)).map (s.sourceByte (past ++ [r])))
    (h : s.ChunkVisits la (past ++ [r]) vs (lin + chunkSize s.cfg lin n)
      (n - chunkSize s.cfg lin n) u w) : s.ChunkVisits la past (r :: vs) lin n t w := by
  obtain ⟨hpos, hle, hin⟩ := chunkSize_bounds s.cfg lin hn
  refine ⟨?pages, hrun.trans h.run, ?path, ?result⟩
  case pages =>
    rw [List.map_cons, h.pages, hpage, chunkCount_step hn, Nat.add_comm 1, List.range'_succ]
    by_cases rest : 0 < n - chunkSize s.cfg lin n
    · rw [chunkSize_next s.cfg rest]
    · rw [Nat.eq_zero_of_not_pos rest]
      rfl
  case path => rw [h.path, hpath, List.flatMap_cons, List.append_assoc]
  case result =>
    have first : (List.range' lin (chunkSize s.cfg lin n)).map (s.sourceByte (past ++ [r])) =
        (List.range' lin (chunkSize s.cfg lin n)).map (s.sourceByte (past ++ [r] ++ vs)) := by
      refine List.map_congr_left fun a ha => (State.sourceByte_append fun r' hr' heq => ?_).symm
      rw [page_of_chunk hin ha] at heq
      exact absurd heq (h.later_page hr').ne'
    rw [h.result, hresult, first, List.append_assoc, ← List.map_append, List.range'_append_1,
      Nat.add_sub_cancel' hle, List.append_assoc, List.singleton_append]

/-- The chunks of a paged READ are one visit each, behind the registration's visits (R130, R131). -/
theorem readChunks_visits (h : s.Visited la past t) (ht : t.Working)
    (hclock : t.clock.toNat = s.clock.toNat + past.length + 1)
    (hreg : registeredPages s la ≤ past.length) {turns remain : Nat} (hturns : remain ≤ turns)
    (hread : readChunks turns lin remain t = .ok () u) :
    ∃ vs, s.ChunkVisits la past vs lin remain t u := by
  induction turns generalizing lin remain past t with
  | zero =>
    obtain rfl : remain = 0 := by omega
    obtain ⟨-, rfl⟩ := Res.ok.inj hread
    exact ⟨[], .nil h ht lin⟩
  | succ turns ih =>
    unfold readChunks at hread
    split at hread
    next hzero =>
      subst hzero
      obtain ⟨-, rfl⟩ := Res.ok.inj hread
      exact ⟨[], .nil h ht lin⟩
    next hne =>
      have hn := Nat.pos_of_ne_zero hne
      obtain ⟨⟨⟩, x, hchunk, hrest⟩ := (Res.bind_eq_ok _ _ _ _).1 hread
      rw [h.cfg] at hchunk hrest
      obtain ⟨hpos, hle, hin⟩ := chunkSize_bounds s.cfg lin hn
      obtain ⟨r, hpage, hrun, hpath, hresult⟩ := readChunk_visit h ht
        (by rw [hclock, visitStamp_of_le hreg]) hin hchunk
      have clock := hrun.clock
      rw [List.length_singleton] at clock
      obtain ⟨vs, hvs⟩ := ih (t := x.advance (lin + chunkSize s.cfg lin remain)
        (remain - chunkSize s.cfg lin remain)) (past := past ++ [r]) (hrun.visited.with_seq _)
        (hrun.working.of_seq rfl ⟨rfl, rfl, rfl⟩)
        (by rw [State.advance_clock, List.length_append, List.length_singleton]; omega)
        (by rw [List.length_append]; omega) (by omega) hrest
      exact ⟨r :: vs, .cons hn hpage hrun hpath hresult (hvs.of_seq rfl rfl)⟩

end
end Sys2Proof.Machine

namespace Sys2Proof.Machine

section
variable {s t u w x : State} {la : LogicalAddr} {len : Word32} {past : List PageVisit}

/-! ## The registration of a segment as visits (R126, R168) -/

theorem toReg32_eq_ofNat {c : Config} (h : c.wf) {a n : Nat} (hn : 0 < n) (ha : a + n ≤ c.memSize) :
    toReg32 a = BitVec.ofNat 32 a := by
  have same := (toReg32_inside h ha).2 hn
  have hlt := (toReg32 a).isLt
  rw [same] at hlt
  exact if_pos hlt

/-- State `u` is `s` after the segment of a READ was registered at the place `a` that allocation left free in `w`: the visits `past` of its first half, every page of the segment populated, the descriptor valid (R168). -/
structure State.Registers (s : State) (la : LogicalAddr) (past : List PageVisit) (a : Nat)
    (w u : State) : Prop where
  allocated : allocate (halfCount s.cfg (s.seg (selOf la).toNat) * s.cfg.pageSize) s = .ok a w
  pages : past.map PageVisit.page =
    List.range' (firstPage s.cfg (s.seg (selOf la).toNat)) (halfCount s.cfg (s.seg (selOf la).toNat))
  visited : s.Visited la past u
  clock : u.clock.toNat = s.clock.toNat + past.length
  populated : ∀ v, (u.page v).populated = true ↔ (s.page v).populated = true ∨
    firstPage s.cfg (s.seg (selOf la).toNat) ≤ v ∧ v ≤ lastPage s.cfg (s.seg (selOf la).toNat)
  registered : u.seg (selOf la).toNat =
    { s.seg (selOf la).toNat with base := BitVec.ofNat 32 a, valid := true }
  others : ∀ i, i ≠ (selOf la).toNat → u.seg i = w.seg i

/-- The state in which a registration loads its pages: the descriptor's base is written, and the segment's pages are marked populated (R168). -/
structure State.Marked (s : State) (i a : Nat) (w x : State) : Prop where
  working : x.Working
  frame : x = { s with seq := x.seq, st := x.st, pt := x.pt }
  page : ∀ v, x.page v = if firstPage s.cfg (s.seg i) ≤ v ∧ v ≤ lastPage s.cfg (s.seg i)
    then { s.page v with populated := true } else s.page v
  base : x.seg i = { s.seg i with base := BitVec.ofNat 32 a, valid := false }
  others : ∀ j, j ≠ i → x.seg j = w.seg j

theorem marked_of_allocate (h : s.Working) (hp : s.mode.pag = true) {i a : Nat}
    (hi : i < s.cfg.numSegments) (hlimit : (s.seg i).limit ≠ 0) (hvalid : (s.seg i).valid = false)
    (hsize : halfCount s.cfg (s.seg i) * s.cfg.pageSize ≤ s.cfg.memSize)
    (halloc : allocate (halfCount s.cfg (s.seg i) * s.cfg.pageSize) s = .ok a w)
    (hmarked : populatePages (firstPage w.cfg (s.seg i)) (pageCount w.cfg (s.seg i))
      (w.setSeg i { w.seg i with base := toReg32 a }) = .ok () x) : s.Marked i a w x := by
  have size := State.regionSize_of_pag hp (s.seg i)
  have hpos := regionSize_pos s hlimit
  obtain ⟨hsound, hplaced, -⟩ := placedAt_of_allocate h.sound hlimit hvalid
    (by rw [size]; exact hsize) (by rw [size]; exact halloc)
  have hre := allocate_rearranged h.sound (size ▸ hpos) hsize halloc
  obtain ⟨hmoves, moves, htrace, -, hmoved⟩ := allocate_moves halloc
  rw [hmoved hp, List.append_nil] at htrace
  have hmem := allocate_mem_of_pag hp halloc
  obtain ⟨-, hframe, -⟩ := (populatePages_eq_ok _ _ _ _).1 hmarked
  have based := hsound.setSeg_base (by rw [hplaced.cfg]; exact hi) hplaced.valid (toReg32 a)
  have hcfg : x.cfg = s.cfg := by rw [hframe, State.setSeg_cfg, hplaced.cfg]
  have seg (j : Nat) : x.seg j = (w.setSeg i { w.seg i with base := toReg32 a }).seg j := by
    rw [hframe]
    rfl
  refine ⟨h.of_sound (based.populatePages hmarked) hcfg (by rw [hframe, State.setSeg_seq, hmoves]),
    ?frame, fun v => ?page, ?base, fun j hj => (seg j).trans (State.setSeg_seg_other _ _ _ _ hj)⟩
  case frame =>
    rw [hframe, hmoves, htrace, hmem]
    rfl
  case page =>
    have pages := firstPage_add_pageCount (c := s.cfg) hlimit
    have page : (w.setSeg i { w.seg i with base := toReg32 a }).page v = s.page v := by
      rw [State.setSeg_page, hmoves]
      rfl
    rw [populatePages_page _ _ _ _ hmarked, page, hplaced.cfg, pages]
    simp only [Nat.lt_succ_iff]
  case base =>
    obtain ⟨b, v, hseg, -⟩ := hre.seg i
    have hv : v = false := by rw [← hplaced.valid, hseg]
    rw [seg, State.setSeg_seg_same, hseg, hv, ← toReg32_eq_ofNat h.sound.params hpos
      (hplaced.cfg ▸ hplaced.free.1)]

/-- A registration that completes (R168). -/
theorem segmentRegister_registers {q : Seq} (h : ({ s with seq := q }).Working)
    (hp : s.mode.pag = true) (hi : (selOf la).toNat < s.cfg.numSegments)
    (hlimit : (s.seg (selOf la).toNat).limit ≠ 0) (hvalid : (s.seg (selOf la).toNat).valid = false)
    (hregister : segmentRegister (selOf la).toNat { s with seq := q } = .ok () u) :
    ∃ past a w, s.Registers la past a w u := by
  obtain ⟨a, w, x, y, hsize, halloc, hmarked, hload, rfl⟩ :=
    (segmentRegister_eq_ok _ _ _).1 hregister
  obtain ⟨working, hx, page, base, others⟩ :=
    marked_of_allocate h hp hi hlimit hvalid hsize halloc hmarked
  have marked : s.Marked (selOf la).toNat a w x :=
    ⟨working, by rw [hx], page, base, others⟩
  have hcfg : x.cfg = s.cfg := by rw [marked.frame]
  rw [hcfg] at hload
  change loadPages (halfCount s.cfg (s.seg (selOf la).toNat)) _ x = _ at hload
  have begun : s.Visited la [] x := .nil hcfg (by rw [marked.frame]) (by rw [marked.frame])
    (by rw [marked.frame]) fun v => by
      rw [marked.page]
      split <;> rfl
  have hclock : x.clock = s.clock := by rw [marked.frame]
  obtain ⟨past, hpages, hrun⟩ := loadPages_visitsOn begun marked.working (by rw [hclock]; rfl)
    (by simp [registeredPages, hvalid]) hload
  have seg (j : Nat) : y.seg j = x.seg j := by
    rw [State.seg, hrun.repaged.st]
    rfl
  have allocated := allocate_with_seq s.seq halloc
  refine ⟨past, a, { w with seq := s.seq }, allocated, hpages,
    { hrun.visited with }, by rw [State.setSeg_clock, hrun.clock, hclock], fun v => ?populated,
    ?registered, fun j hj => ?others⟩
  case populated =>
    rw [State.setSeg_page, hrun.repaged.populated, marked.page]
    split
    next hin => simp only [hin, and_self, or_true]
    next hout => simp only [hout, or_false]
  case registered =>
    rw [State.setSeg_seg_same, seg, marked.base]
  case others => exact (State.setSeg_seg_other _ _ _ _ hj).trans ((seg j).trans (marked.others j hj))

end
end Sys2Proof.Machine

namespace Sys2Proof.Machine

section
variable {s t u w : State} {la : LogicalAddr} {len : Word32} {past vs visits : List PageVisit}

/-! ## A paged READ as visits (R126 to R131) -/

/-- The tables of state `t` are as the segment phase of a paged READ from state `s` leaves descriptors and populated flags (R125 to R127, R168). -/
structure State.Prepares (s : State) (la : LogicalAddr) (t : State) : Prop where
  populated : ∀ v, (t.page v).populated = true ↔ (s.page v).populated = true ∨
    ((s.seg (selOf la).toNat).valid = false ∧ firstPage s.cfg (s.seg (selOf la).toNat) ≤ v ∧
      v ≤ lastPage s.cfg (s.seg (selOf la).toNat))
  hit : (s.seg (selOf la).toNat).valid = true →
    t.seg (selOf la).toNat = { s.seg (selOf la).toNat with ts := s.clock + 1 } ∧
    ∀ i, i ≠ (selOf la).toNat → t.seg i = s.seg i
  miss : (s.seg (selOf la).toNat).valid = false → ∃ a w,
    allocate (halfCount s.cfg (s.seg (selOf la).toNat) * s.cfg.pageSize) s = .ok a w ∧
    t.seg (selOf la).toNat = { s.seg (selOf la).toNat with
      base := BitVec.ofNat 32 a
      valid := true
      ts := s.clock + BitVec.ofNat 64 (registeredPages s la) + 1 } ∧
    ∀ i, i ≠ (selOf la).toNat → t.seg i = w.seg i

/-- Page visits change neither descriptors nor populated flags. -/
theorem State.Prepares.repaged (h : s.Prepares la w) (hre : w.Repaged t) : s.Prepares la t := by
  have seg (i : Nat) : t.seg i = w.seg i := by
    rw [State.seg, hre.st]
    rfl
  refine ⟨fun v => by rw [hre.populated]; exact h.populated v, fun hv => ?_, fun hv => ?_⟩
  · obtain ⟨hsel, hothers⟩ := h.hit hv
    exact ⟨(seg _).trans hsel, fun i hi => (seg i).trans (hothers i hi)⟩
  · obtain ⟨a, x, halloc, hsel, hothers⟩ := h.miss hv
    exact ⟨a, x, halloc, (seg _).trans hsel, fun i hi => (seg i).trans (hothers i hi)⟩

/-- The segment phase of a paged READ from state `s` leads to `w`: the visits of its registration, then one stamp (R126, R127, R168). -/
structure State.PhaseVisits (s : State) (la : LogicalAddr) (past : List PageVisit) (w : State) :
    Prop where
  pages : past.map PageVisit.page =
    List.range' (firstPage s.cfg (s.seg (selOf la).toNat)) (registeredPages s la)
  visited : s.Visited la past w
  clock : w.clock.toNat = s.clock.toNat + past.length + 1
  prepares : s.Prepares la w

/-- A descriptor that is valid is stamped, and no page is visited (R125, R127). -/
theorem phaseVisits_of_valid (hv : (s.seg (selOf la).toNat).valid = true)
    (hroom : s.clock ≠ BitVec.allOnes 64) (q : Seq) :
    s.PhaseVisits la [] (({ s with seq := q }).stampedAt (selOf la).toNat) where
  pages := by rw [registeredPages, if_pos hv]; rfl
  visited := .nil rfl rfl rfl rfl fun _ => rfl
  clock := clock_succ s.clock hroom
  prepares := by
    refine ⟨fun v => ?_, fun _ => ⟨State.stampedAt_seg_same _ _, fun i hi =>
      State.stampedAt_seg_other _ hi⟩, fun hnot => absurd (hnot.symm.trans hv) nofun⟩
    simp only [hv, Bool.true_eq_false, false_and, or_false]
    rfl

/-- A descriptor that was registered is stamped after the visits of its registration (R126, R127, R131). -/
theorem State.Registers.phaseVisits {a : Nat} (h : s.Registers la past a w u)
    (hv : (s.seg (selOf la).toNat).valid = false) (hroom : u.clock ≠ BitVec.allOnes 64) :
    s.PhaseVisits la past (u.stampedAt (selOf la).toNat) := by
  have registered : registeredPages s la = halfCount s.cfg (s.seg (selOf la).toNat) := by
    simp [registeredPages, hv]
  have length : past.length = registeredPages s la := by
    have := congrArg List.length h.pages
    rwa [List.length_map, List.length_range', ← registered] at this
  have clock : u.clock = s.clock + BitVec.ofNat 64 (registeredPages s la) := by
    refine BitVec.eq_of_toNat_eq ?_
    have := u.clock.isLt
    rw [BitVec.toNat_add, BitVec.toNat_ofNat, Nat.add_mod_mod, h.clock, length,
      Nat.mod_eq_of_lt (by rw [← length, ← h.clock]; exact this)]
  refine ⟨by rw [registered]; exact h.pages, { h.visited with },
    by rw [← h.clock]; exact clock_succ u.clock hroom, ⟨fun v => ?_, fun hnot =>
      absurd (hv.symm.trans hnot) nofun, fun _ => ⟨a, w, h.allocated, ?_, fun i hi =>
        (State.stampedAt_seg_other _ hi).trans (h.others i hi)⟩⟩⟩
  · simp only [hv, true_and]
    exact h.populated v
  · rw [State.stampedAt_seg_same, h.registered, clock]

theorem segmentPhase_visits (h : s.Inv) (hp : s.mode.pag = true) (hread : readable la len s)
    (hphase : segmentPhase (selOf la).toNat (s.looking la len) = .ok () w) :
    ∃ past, s.PhaseVisits la past w := by
  obtain ⟨u, ⟨hv, rfl⟩ | ⟨hv, hfault⟩, hstamp⟩ := (segmentPhase_eq_ok _ _ _).1 hphase
  · obtain ⟨hroom, rfl⟩ := (stampSegment_eq_ok _ _ _ _).1 hstamp
    exact ⟨[], phaseVisits_of_valid (s := s) hv hroom (s.lookingSeq la len)⟩
  · obtain ⟨hroom, rfl⟩ := (stampSegment_eq_ok _ _ _ _).1 hstamp
    have faulting := (h.looking la len).enter .segmentFault
    rw [segmentFault, if_pos (show ((s.looking la len).enter .segmentFault).mode.pag = true from hp)]
      at hfault
    obtain ⟨past, a, x, hregisters⟩ := segmentRegister_registers (s := s)
      (q := ((s.looking la len).enter .segmentFault).seq) faulting hp hread.1
      (limit_ne_zero_of_readable hread) hv hfault
    exact ⟨past, hregisters.phaseVisits hv hroom⟩

/-- Paged READ from state `s` that answers OK in state `t`, by the visits it makes (R121 to R131). -/
structure State.ReadsPages (s : State) (la : LogicalAddr) (len : Word32) (visits : List PageVisit)
    (t : State) : Prop where
  pages : visits.map PageVisit.page = visitedPages s la len
  visited : s.Visited la visits t
  clock : t.clock.toNat = s.clock.toNat + visits.length + 1
  prepares : s.Prepares la t
  path : t.seq.path = [.decode, .segmentLookup] ++
    (if (s.seg (selOf la).toNat).valid then [] else [.segmentFault]) ++ [.linearCompute] ++
    (visits.drop (registeredPages s la)).flatMap (fun r => chunkPath r.fault) ++ [.done]
  result : t.seq.result = (List.range' (readLin s la 0) len.toNat).map (s.sourceByte visits)

/-- A paged READ that answers OK is the visits of its segment phase, then those of its chunks (R126 to R131). -/
theorem exec_read_visits (h : s.Inv) (hseg : s.mode.seg = true) (hp : s.mode.pag = true)
    (ht : exec (.read la len) s = .next t) (hok : t.seq.status = .ok) :
    ∃ visits, s.ReadsPages la len visits t := by
  obtain ⟨-, hread, w, u, hphase, haccess, rfl⟩ := exec_read_translated_ok hseg ht hok
  obtain ⟨hwork, -, kept⟩ := segmentPhase_ready h hread hphase
  obtain ⟨past, phase⟩ := segmentPhase_visits h hp hread hphase
  have length : past.length = registeredPages s la := by
    have := congrArg List.length phase.pages
    rwa [List.length_map, List.length_range'] at this
  have start : (w.seg (selOf la).toNat).diskBase.toNat + (offOf la).toNat = readLin s la 0 := by
    rw [(kept.seg (selOf la).toNat).2.1]
    rfl
  rw [readAccess, if_pos (by rw [kept.mode]; exact hp), readPaged, start] at haccess
  obtain ⟨vs, chunks⟩ := readChunks_visits (phase.visited.with_seq _)
    ((hwork.linear _ _).setResult _) phase.clock length.ge (le_refl _) haccess
  refine ⟨past ++ vs, ?pages, chunks.run.visited.with_seq _, ?clock,
    (phase.prepares.repaged chunks.run.of_seq.repaged).repaged ⟨rfl, fun _ => rfl⟩, ?path, ?result⟩
  case pages =>
    rw [List.map_append, phase.pages, chunks.pages]
    rfl
  case clock =>
    have := chunks.run.clock
    change u.clock.toNat = w.clock.toNat + vs.length at this
    rw [State.respond_clock, this, phase.clock, List.length_append]
    omega
  case path =>
    have := chunks.path
    change u.seq.path = w.seq.path ++ [.linearCompute] ++ _ at this
    rw [State.respond_path, this, ← length, List.drop_left, segmentPhase_path hphase,
      State.looking_path, State.looking_seg]
  case result => exact chunks.result

end
end Sys2Proof.Machine

namespace Sys2Proof.Machine

section
variable {s t : State} {la : LogicalAddr} {len : Word32} {visits : List PageVisit}
  {r : PageVisit} {j k : Nat}

/-! ## What the visits of a paged READ leave (R127, R131, R135) -/

theorem readLin_add (s : State) (la : LogicalAddr) (k : Nat) :
    readLin s la 0 + k = readLin s la k := rfl

/-- The bytes that a READ asks for lie in pages of the table (R46). -/
theorem readPage_lt (h : s.Sound) (hread : readable la len s) (hk : k < len.toNat) :
    readPage s la k < s.cfg.numVPages := by
  obtain ⟨hlt, hpop, -, hlen⟩ := hread
  have := h.disk _ hlt hpop
  exact Config.page_lt h.params (by unfold readLin; omega)

/-- A READ has one visit for each page it registers and for each chunk (R131, R168). -/
theorem State.ReadsPages.length (h : s.ReadsPages la len visits t) : visits.length =
    registeredPages s la + chunkCount s.cfg (readLin s la 0) len.toNat := by
  have := congrArg List.length h.pages
  simpa [visitedPages] using this

/-- Byte `k` of a READ lies in a page among its chunks' (R130). -/
theorem readPage_offset (hk : k < len.toNat) : readPage s la k - readPage s la 0 <
    chunkCount s.cfg (readLin s la 0) len.toNat ∧ readPage s la 0 ≤ readPage s la k := by
  have low : readPage s la 0 ≤ readPage s la k :=
    Nat.div_le_div_right (Nat.le_add_right _ _)
  have high : readPage s la k ≤ (readLin s la 0 + len.toNat - 1) / s.cfg.pageSize :=
    Nat.div_le_div_right (by rw [← readLin_add]; omega)
  rw [chunkCount, if_neg (by omega)]
  refine ⟨?_, low⟩
  unfold readPage at low high ⊢
  omega

/-- The visit of the page of byte `k` (R130). -/
theorem State.ReadsPages.visit (h : s.ReadsPages la len visits t) (hk : k < len.toNat) :
    ∃ r, visits[registeredPages s la + (readPage s la k - readPage s la 0)]? = some r ∧
      r.page = readPage s la k := by
  obtain ⟨hlt, hle⟩ := readPage_offset (s := s) (la := la) hk
  have page : (visitedPages s la len)[registeredPages s la +
      (readPage s la k - readPage s la 0)]? = some (readPage s la k) := by
    rw [visitedPages, List.getElem?_append_right (by simp), List.length_range',
      Nat.add_sub_cancel_left, List.getElem?_range' hlt]
    congr 1
    omega
  rwa [← h.pages, List.getElem?_map, Option.map_eq_some_iff] at page

/-- A page stays resident through the visits after its own, if with it they are no more than there are frames (R135, R195). -/
theorem State.ReadsPages.resident (h : s.ReadsPages la len visits t) (hs : s.Sound) (ht : t.Sound)
    (hr : visits[j]? = some r) (hlate : visits.length ≤ j + s.cfg.numFrames) :
    (t.page r.page).resident = true := by
  obtain ⟨hheld, -⟩ := visits_held hs h.visited.follows hlate j r (le_refl j) hr
  obtain ⟨hf, -⟩ := h.visited.follows j r hr
  exact (h.visited.resident_of_heldBy ht hf hheld).1

theorem exec_read_length (ht : exec (.read la len) s = .next t) (hok : t.seq.status = .ok) :
    t.response.data.length = len.toNat := by
  obtain ⟨hop, hlen⟩ := exec_read_ok ht hok
  rw [response_data_of_read hok hop, hlen]

/-- A byte of the answer of a paged READ is what its page's visit found or loaded (R130). -/
theorem State.ReadsPages.data (h : s.ReadsPages la len visits t)
    (ht : exec (.read la len) s = .next t) (hok : t.seq.status = .ok) (hk : k < len.toNat) :
    t.response.data[k]? = some (s.sourceByte visits (readLin s la k)) := by
  rw [response_data_of_read hok (exec_read_ok ht hok).1, h.result, List.getElem?_map,
    List.getElem?_range' hk, Nat.one_mul]
  rfl

/-- The visits of a paged READ that answers OK account for all it does (R121 to R199). -/
theorem State.ReadsPages.effect (h : s.ReadsPages la len visits t) (hsound : t.Sound)
    (ht : exec (.read la len) s = .next t) (hok : t.seq.status = .ok) :
    PagedEffect s t la len visits where
  pages := h.pages
  follows := h.visited.follows
  trace := h.visited.trace
  path := h.path
  frames f hf := ⟨h.visited.stamps f hf, h.visited.held f hf⟩
  resident v hv := by
    refine ⟨⟨fun hres => ⟨_, h.visited.heldBy_of_resident hsound hv hres⟩, ?_⟩,
      fun hres => (h.visited.heldBy_of_resident hsound hv hres).2⟩
    rintro ⟨f, hf, hheld⟩
    exact (h.visited.resident_of_heldBy hsound hf hheld).1
  populated := h.prepares.populated
  kept := h.visited.kept
  loaded := h.visited.loaded
  length := exec_read_length ht hok
  fresh k hk hload := by rw [h.data ht hok hk, State.sourceByte_loaded hload]
  old k hk hkept := by
    rw [h.data ht hok hk, State.sourceByte, if_neg ?_]
    · rfl
    · rintro ⟨r, hr, hpage, hfault⟩
      simp [hkept r hr hpage] at hfault

/-- A READ that answers OK writes neither parameters, mode, FATAL nor the port (R120). -/
theorem exec_read_frame (hf : s.fatal = false) (hread : readable la len s)
    (ht : exec (.read la len) s = .next t) (hok : t.seq.status = .ok) :
    t = { s with
      seq := t.seq
      clock := t.clock
      st := t.st
      pt := t.pt
      rpt := t.rpt
      mem := t.mem
      trace := t.trace } := by
  obtain ⟨hfatal, hmode, hcfg, -⟩ := exec_read_again hf hread ht hok
  obtain ⟨-, -, hinput, -⟩ := readKeepsRegistrations s t la len ht
  rw [← hcfg, ← hmode, ← hinput, hf, ← hfatal]

/-- A paged READ within capacity and before the end of CLOCK answers OK (R124 to R133). -/
theorem exec_read_paged_completes (h : s.Inv) (hf : s.fatal = false) (hseg : s.mode.seg = true)
    (hp : s.mode.pag = true) (hread : readable la len s)
    (hroom : (s.seg (selOf la).toNat).valid = true ∨
      s.regionSize (s.seg (selOf la).toNat) ≤ s.cfg.memSize)
    (hclock : s.clock.toNat + pagedStamps s la len < 2 ^ 64) :
    ∃ t, ends (exec (.read la len) s) t .ok := by
  have working : (((s.accept 0).latchRead la len).latchSelector la).Working :=
    h.working.of_seq rfl ⟨rfl, rfl, rfl⟩
  have stamps := readTranslated_stamps working hseg hread hroom
  rw [commandStamps_read_of_pag (s := ((s.accept 0).latchRead la len).latchSelector la) hseg hp
    hread hroom] at stamps
  obtain ⟨⟨⟩, u, hwork, -⟩ := stamps.1 hclock
  refine ⟨u.respond .ok, ?_, rfl, rfl⟩
  rw [exec_read_translated hf hseg, hwork]
  rfl

/-- Settles O55: a paged READ that completes is its visits; with no byte to read they are those of the registration, which fill no more frames than there are. -/
theorem pagedReadFollowsItsVisits : Obligations.PagedReadFollowsItsVisits := by
  intro s la len hinv hf hseg hp hread hroom hclock
  obtain ⟨t, hends⟩ := exec_read_paged_completes hinv hf hseg hp hread hroom hclock
  obtain ⟨ht, hok, -⟩ := id hends
  have hsound := (exec_inv hinv ht).sound
  obtain ⟨visits, reads⟩ := exec_read_visits hinv hseg hp ht hok
  refine ⟨t, visits, hends, exec_read_frame hf hread ht hok, reads.effect hsound ht hok,
    reads.prepares.hit, reads.prepares.miss, ?_⟩
  rintro rfl v hv
  rw [← reads.pages] at hv
  obtain ⟨r, hr, rfl⟩ := List.mem_map.1 hv
  obtain ⟨j, hj⟩ := List.mem_iff_getElem?.1 hr
  refine reads.resident hinv.sound hsound hj ?_
  have registered : registeredPages s la ≤ s.cfg.numFrames := by
    unfold registeredPages
    split
    next => exact Nat.zero_le _
    next hv =>
      rw [State.regionSize_of_pag hp] at hroom
      exact halfCount_le_numFrames (hroom.resolve_left hv)
  have none : chunkCount s.cfg (readLin s la 0) (0 : Word32).toNat = 0 := if_pos rfl
  rw [reads.length, none]
  omega

/-- The descriptor's stamp stands before those of the chunks, and the descriptor is valid (R127, R131). -/
theorem State.ReadsPages.descriptor (h : s.ReadsPages la len visits t) :
    (t.seg (selOf la).toNat).valid = true ∧ (t.seg (selOf la).toNat).ts.toNat +
      chunkCount s.cfg (readLin s la 0) len.toNat = t.clock.toNat := by
  have bound := t.clock.isLt
  have one : (1 : BitVec 64).toNat = 1 := rfl
  have clock := h.clock
  rw [h.length] at clock
  cases hv : (s.seg (selOf la).toNat).valid with
  | true =>
    obtain ⟨hsel, -⟩ := h.prepares.hit hv
    have registered : registeredPages s la = 0 := if_pos hv
    rw [hsel]
    refine ⟨hv, ?_⟩
    simp only [BitVec.toNat_add]
    omega
  | false =>
    obtain ⟨a, w, -, hsel, -⟩ := h.prepares.miss hv
    rw [hsel]
    refine ⟨rfl, ?_⟩
    simp only [BitVec.toNat_add, BitVec.toNat_ofNat]
    omega

theorem pagedStamps_eq (s : State) (la : LogicalAddr) (len : Word32) : pagedStamps s la len =
    registeredPages s la + 1 + chunkCount s.cfg (readLin s la 0) len.toNat := rfl

/-- Settles O26: the READ completes with one stamp for each visit and one for the descriptor; the last visit's page stays. -/
theorem pagedReadEndsAndStamps : Obligations.PagedReadEndsAndStamps := by
  intro s la len hinv hf hseg hp hread hroom hclock
  obtain ⟨t, hends⟩ := exec_read_paged_completes hinv hf hseg hp hread hroom hclock
  obtain ⟨ht, hok, -⟩ := id hends
  have hsound := (exec_inv hinv ht).sound
  obtain ⟨visits, reads⟩ := exec_read_visits hinv hseg hp ht hok
  obtain ⟨hvalid, hts⟩ := reads.descriptor
  refine ⟨t, hends, ?clock, exec_read_length ht hok, hvalid, hts, fun hpos => ?last⟩
  case clock =>
    rw [reads.clock, reads.length, pagedStamps_eq]
    omega
  case last =>
    obtain ⟨r, hr, hpage⟩ := reads.visit (k := len.toNat - 1) (by omega)
    obtain ⟨hframe, -⟩ := reads.visited.follows _ r hr
    have count : chunkCount s.cfg (readLin s la 0) len.toNat =
        readPage s la (len.toNat - 1) - readPage s la 0 + 1 := by
      rw [chunkCount, if_neg (by omega), Nat.add_sub_assoc hpos]
      rfl
    rw [← hpage]
    refine reads.resident hinv.sound hsound hr ?_
    rw [reads.length, count]
    omega

/-- Settles O27: none of the chunks' visits comes so late after another that it evicts its page. -/
theorem pagedReadEvictsNoneOfItsPages : Obligations.PagedReadEvictsNoneOfItsPages := by
  intro s t la len hinv hseg hp ht hok hcount k hk
  obtain ⟨visits, reads⟩ := exec_read_visits hinv hseg hp ht hok
  obtain ⟨r, hr, hpage⟩ := reads.visit hk
  rw [← hpage]
  refine reads.resident hinv.sound (exec_inv hinv ht).sound hr ?_
  rw [reads.length]
  omega

/-- Settles O28: all pages of the READ are resident after it, so the next one hits, and finds in the frames the bytes the first one answered. -/
theorem repeatedPagedReadIsIdempotent : Obligations.RepeatedPagedReadIsIdempotent := by
  intro s t la len hinv hseg hp ht hok hcount hclock
  obtain ⟨hf, hread, -⟩ := exec_read_translated_ok hseg ht hok
  obtain ⟨hf', hmode, hcfg, hread', hdisk⟩ := exec_read_again hf hread ht hok
  obtain ⟨visits, reads⟩ := exec_read_visits hinv hseg hp ht hok
  obtain ⟨hvalid, -⟩ := reads.descriptor
  have lin (k : Nat) : readLin t la k = readLin s la k := by rw [readLin, hdisk]; rfl
  have page (k : Nat) : readPage t la k = readPage s la k := by rw [readPage, lin, hcfg]; rfl
  have resident := pagedReadEvictsNoneOfItsPages s t la len hinv hseg hp ht hok hcount
  have stamps : pagedStamps t la len = 1 + chunkCount s.cfg (readLin s la 0) len.toNat := by
    rw [pagedStamps_eq, registeredPages, if_pos hvalid, Nat.zero_add, hcfg, lin]
  obtain ⟨u, hends, hframe, -, -, -, -, -, hlen, hbytes⟩ := pagedHitReadsTheFrames t la len
    (exec_inv hinv ht) hf' (by rw [hmode, hseg]) (by rw [hmode, hp]) hread' hvalid
    (fun k hk => by rw [page]; exact resident k hk) (by rw [stamps]; omega)
  refine ⟨u, hends, ?_, by rw [hframe], by rw [hframe]⟩
  have status : u.response.status = t.response.status := hends.2.1.trans hok.symm
  have data : u.response.data = t.response.data := by
    refine List.ext_getElem? fun k => ?_
    by_cases hk : k < len.toNat
    · rw [hbytes k hk, reads.data ht hok hk, ← reads.visited.bytes _
        (readPage_lt hinv.sound hread hk) (resident k hk), ← lin]
      rfl
    · have hlen' := exec_read_length ht hok
      rw [List.getElem?_eq_none (by omega), List.getElem?_eq_none (by omega)]
  calc u.response = ⟨u.response.status, u.response.data⟩ := rfl
    _ = t.response := by rw [status, data]

end
end Sys2Proof.Machine

namespace Sys2Proof.Machine

/-! PROOFS. The segment table: first-fit, the gaps, the order of the victims, eviction, compaction, allocation, and the one error that it raises. -/

section
variable {s t u : State}

/-! ## The gaps in order (R161, R162) -/

/-- The gaps stand one after another. -/
theorem gapsFrom_ordered {top cur : Nat} {l : List (Nat × Nat)} (horder : l.Pairwise inOrder)
    (hinside : ∀ p ∈ l, 0 < p.2 → cur ≤ p.1 ∧ p.1 + p.2 ≤ top) :
    (gapsFrom top l cur).Pairwise fun g h => g.2 ≤ h.1 := by
  induction l generalizing cur with
  | nil =>
    unfold gapsFrom
    split
    · exact List.pairwise_singleton _ _
    · exact .nil
  | cons p l ih =>
    obtain ⟨hp, hl⟩ := List.pairwise_cons.1 horder
    obtain ⟨hfirst, hrest⟩ := List.forall_mem_cons.1 hinside
    by_cases hempty : p.2 = 0
    · rw [gapsFrom, if_pos hempty]
      exact ih hl hrest
    have hpos : 0 < p.2 := by omega
    have after : ∀ q ∈ l, 0 < q.2 → p.1 + p.2 ≤ q.1 ∧ q.1 + q.2 ≤ top := fun q hq hpos' =>
      ⟨hp q hq hpos hpos', (hrest q hq hpos').2⟩
    rw [gapsFrom, if_neg hempty]
    split
    · refine List.pairwise_cons.2 ⟨fun g hg => ?_, ih hl after⟩
      obtain ⟨hlow, -⟩ := gapsFrom_apart hl after hg
      exact (Nat.le_add_right _ _).trans hlow
    · exact ih hl after

theorem State.Sound.gaps_ordered (h : s.Sound) : (gaps s).Pairwise fun g g' => g.2 ≤ g'.1 :=
  gapsFrom_ordered h.regions_inOrder h.regions_inside

/-- A gap is a place, not empty, that no valid region meets (R161). -/
theorem State.Sound.gap_free (h : s.Sound) {g : Nat × Nat} (hg : g ∈ gaps s) :
    g.1 < g.2 ∧ g.2 ≤ s.cfg.memSize ∧ ∀ i, (s.seg i).valid = true →
      0 < s.regionSize (s.seg i) → g.2 ≤ (s.seg i).base.toNat ∨
        (s.seg i).base.toNat + s.regionSize (s.seg i) ≤ g.1 := by
  obtain ⟨-, hpos, htop, hfree⟩ := gapsFrom_apart h.regions_inOrder h.regions_inside hg
  exact ⟨hpos, htop, fun i hv => hfree _ ((h.mem_regions _).2 ⟨i, hv, rfl⟩)⟩

/-- A free place lies in one gap (R161). -/
theorem State.Sound.gap_of_freeAt (h : s.Sound) {size a : Nat} (hsize : 1 ≤ size)
    (hfree : freeAt s size a) : ∃ g ∈ gaps s, g.1 ≤ a ∧ a + size ≤ g.2 := by
  obtain ⟨htop, hapart⟩ := hfree
  refine gapsFrom_covers hsize (Nat.zero_le a) htop fun p hp hpos => ?_
  obtain ⟨i, hv, rfl⟩ := (h.mem_regions p).1 hp
  exact hapart i (h.lt_of_valid hv) hv hsize hpos

/-- No place below the first gap that fits is free (R162). -/
theorem State.Sound.firstFit_lowest (h : s.Sound) {size a b : Nat} (hsize : 1 ≤ size)
    (hfit : firstFit size s = some a) (hb : freeAt s size b) : a ≤ b := by
  obtain ⟨g, hfind, rfl⟩ := Option.map_eq_some_iff.1 hfit
  obtain ⟨-, earlier, later, hsplit, htooSmall⟩ := List.find?_eq_some_iff_append.1 hfind
  obtain ⟨g', hg', hlow, hhigh⟩ := h.gap_of_freeAt hsize hb
  have ordered := h.gaps_ordered
  have hpos := (h.gap_free (List.mem_of_find?_eq_some hfind)).1
  rw [hsplit] at hg' ordered
  obtain ⟨-, hrest, -⟩ := List.pairwise_append.1 ordered
  rcases List.mem_append.1 hg' with hbefore | hfrom
  · have := htooSmall g' hbefore
    simp only [Bool.not_eq_true', decide_eq_false_iff_not] at this
    omega
  rcases List.mem_cons.1 hfrom with rfl | hafter
  · exact hlow
  · have := (List.pairwise_cons.1 hrest).1 g' hafter
    omega

/-- Settles O34: the first gap that fits is free, no free place lies below it, and where one place is free a gap fits. -/
theorem firstFitIsTheLowestFreePlace : Obligations.FirstFitIsTheLowestFreePlace := by
  intro s size a h hsize
  refine ⟨fun hfit => ⟨h.firstFit_freeAt hfit, fun b hb hfree => ?_⟩, fun ⟨hfree, hlowest⟩ => ?_⟩
  · exact absurd (h.firstFit_lowest hsize hfit hfree) (not_le.2 hb)
  · obtain ⟨b, hfit⟩ := h.firstFit_of_freeAt hsize hfree
    have hba : b ≤ a := h.firstFit_lowest hsize hfit hfree
    have hab : ¬ b < a := fun hlt => hlowest b hlt (h.firstFit_freeAt hfit)
    rw [hfit, le_antisymm hba (not_lt.1 hab)]

/-! ## The bytes of gaps and regions (R161) -/

/-- The bytes in use are those of the valid entries' regions, in whatever order (R10). -/
theorem State.Sound.usedBytes_eq_validEntries (h : s.Sound) :
    usedBytes s = ((validEntries s).map fun p => s.regionSize p.2).sum := by
  rw [h.usedBytes_eq, regions, List.map_map]
  exact ((List.perm_insertionSort baseBefore (validEntries s)).map _).sum_eq

/-- Settles O35: the valid entries in address order are the regions that the gaps leave. -/
theorem gapsAndRegionsFillMemory : Obligations.GapsAndRegionsFillMemory := by
  intro s h
  rw [← h.usedBytes_eq_validEntries]
  exact h.totalFree_add_usedBytes

/-! ## The orders of the valid descriptors (R161, R164) -/

/-- The selectors of the valid descriptors, sorted by `before`, are in the strict order that `before` is between different selectors. -/
theorem State.Sound.sorted_selectors (h : s.Sound)
    (before : Nat × Descriptor → Nat × Descriptor → Prop)
    [DecidableRel before] [Std.Total before] [IsTrans (Nat × Descriptor) before]
    {strictly : Nat → Nat → Prop}
    (hstrict : ∀ i j, i ≠ j → before (i, s.seg i) (j, s.seg j) → strictly i j) :
    (((validEntries s).insertionSort before).map Prod.fst).Pairwise strictly := by
  have perm := List.perm_insertionSort before (validEntries s)
  have distinct : ((validEntries s).insertionSort before).Pairwise fun p q => p.1 ≠ q.1 := by
    obtain ⟨⟨⟨hsorted, -⟩, -⟩, -⟩ := h.canonical
    exact List.pairwise_map.1 ((perm.map Prod.fst).nodup_iff.2
      (List.pairwise_map.2 ((hsorted.filter _).imp Nat.ne_of_lt)))
  have entry {p : Nat × Descriptor} (hp : p ∈ (validEntries s).insertionSort before) :
      s.seg p.1 = p.2 := ((h.mem_validEntries p.1 p.2).1 (perm.mem_iff.1 hp)).1
  rw [List.pairwise_map]
  refine ((List.pairwise_insertionSort before _).and distinct).imp_of_mem fun {p q} hp hq hpq => ?_
  obtain ⟨hbefore, hne⟩ := hpq
  exact hstrict p.1 q.1 hne (by rw [entry hp, entry hq]; exact hbefore)

theorem State.Sound.validOrder_ordered (h : s.Sound) : (validOrder s).Pairwise fun i j =>
    (s.seg i).base < (s.seg j).base ∨ (s.seg i).base = (s.seg j).base ∧ i < j := by
  have total : Std.Total baseBefore := ⟨fun p q => by unfold baseBefore; bv_omega⟩
  have trans : IsTrans (Nat × Descriptor) baseBefore :=
    ⟨fun p q r => by unfold baseBefore; bv_omega⟩
  exact h.sorted_selectors baseBefore fun i j hne hij =>
    hij.imp_right fun ⟨hbase, hle⟩ => ⟨hbase, lt_of_le_of_ne hle hne⟩

theorem State.Sound.victimOrder_ordered (h : s.Sound) : (victimOrder s).Pairwise fun i j =>
    (s.seg i).ts < (s.seg j).ts ∨ (s.seg i).ts = (s.seg j).ts ∧ i < j := by
  have total : Std.Total stampBefore := ⟨fun p q => by unfold stampBefore; bv_omega⟩
  have trans : IsTrans (Nat × Descriptor) stampBefore :=
    ⟨fun p q r => by unfold stampBefore; bv_omega⟩
  exact h.sorted_selectors stampBefore fun i j hne hij =>
    hij.imp_right fun ⟨hts, hle⟩ => ⟨hts, lt_of_le_of_ne hle hne⟩

/-- Settles O36: the victims are the valid entries sorted by stamp. -/
theorem victimsAreOldestFirst : Obligations.VictimsAreOldestFirst := fun _ h =>
  ⟨fun i => (h.mem_victimOrder i).trans ⟨fun hv => ⟨h.lt_of_valid hv, hv⟩, And.right⟩,
    h.victimOrder_ordered⟩

/-! ## Eviction (R165, R171) -/

/-- Eviction of the descriptors of a list, one after another. -/
def evictAll (order : List Nat) (s : State) : State := order.foldl (fun u i => invalidate i u) s

/-- The eviction loop evicts no more of its list from the front than frees enough, or all of it (R165). -/
theorem evictUntil_eq_evictAll {size : Nat} {order : List Nat} (hshort : totalFree s < size) :
    ∃ n ≤ order.length, evictUntil size order s = evictAll (order.take n) s ∧
      (∀ m < n, totalFree (evictAll (order.take m) s) < size) ∧
      (n = order.length ∨ size ≤ totalFree (evictUntil size order s)) := by
  induction order generalizing s with
  | nil => exact ⟨0, le_refl _, rfl, nofun, .inl rfl⟩
  | cons i rest ih =>
    rw [evictUntil]
    split
    next hroom =>
      refine ⟨1, by simp, rfl, fun m hm => ?_, .inr hroom⟩
      obtain rfl := Nat.lt_one_iff.1 hm
      exact hshort
    next hstill =>
      obtain ⟨n, hn, hevicted, hbefore, hlast⟩ := ih (not_le.1 hstill)
      refine ⟨n + 1, Nat.succ_le_succ hn, hevicted, fun m hm => ?_,
        hlast.imp_left (congrArg Nat.succ)⟩
      cases m with
      | zero => exact hshort
      | succ m => exact hbefore m (Nat.lt_of_succ_lt_succ hm)

/-- Settles O37: the loop evicts the victims from the front, no more than free enough. -/
theorem evictionStopsWhenEnoughIsFree : Obligations.EvictionStopsWhenEnoughIsFree :=
  fun _ _ hshort => evictUntil_eq_evictAll hshort

end
end Sys2Proof.Machine

namespace Sys2Proof.Machine

section
variable {s t u : State}

/-! ## Compaction (R163) -/

theorem packingNotices_append (s : State) (ps qs : List (Nat × Nat)) :
    packingNotices s (ps ++ qs) = packingNotices s ps ++ packingNotices s qs := by
  simp [packingNotices]

/-- The notices of a packing depend on the descriptors that it names and on their sizes alone. -/
theorem packingNotices_congr {packed : List (Nat × Nat)}
    (hseg : ∀ p ∈ packed, t.seg p.1 = s.seg p.1)
    (hsize : ∀ d, t.regionSize d = s.regionSize d) :
    packingNotices t packed = packingNotices s packed := by
  unfold packingNotices
  rw [List.filter_congr fun p hp => by rw [hseg p hp, hsize]]
  refine List.map_congr_left fun p hp => ?_
  rw [hseg p (List.mem_of_mem_filter hp), hsize]

/-- Outside paged mode sliding a region sends its notice where it holds bytes and is not in place (R163). -/
theorem slideTo_trace {i cur : Nat} (hp : s.mode.pag = false) (h : slideTo i cur s = .ok () t) :
    t.trace = s.trace ++ packingNotices s [(i, cur)] := by
  obtain ⟨hplace, rfl⟩ | ⟨-, hstill, rfl⟩ | ⟨hplace, ⟨-, hpos⟩, -, -, rfl⟩ :=
    (slideTo_eq_ok i cur s t ()).1 h
  · simp [packingNotices, hplace]
  · have hempty : s.regionSize (s.seg i) = 0 := by
      by_contra hne
      exact hstill ⟨hp, Nat.pos_of_ne_zero hne⟩
    simp [packingNotices, hempty]
  · simp [packingNotices, hplace, hpos]

/-- Outside paged mode the notices of compaction are those of its packing, in that order (R163). -/
theorem compactFrom_trace {order : List Nat} {cur : Nat} (hp : s.mode.pag = false)
    (hnodup : order.Nodup) (h : compactFrom order cur s = .ok () t) :
    t.trace = s.trace ++ packingNotices s (packing s order cur) := by
  induction order generalizing s cur with
  | nil =>
    obtain ⟨-, rfl⟩ := Res.ok.inj h
    exact (List.append_nil _).symm
  | cons i rest ih =>
    obtain ⟨hi, hnodup⟩ := List.nodup_cons.1 hnodup
    obtain ⟨⟨⟩, u, hslide, hrest⟩ := (Res.bind_eq_ok _ _ _ _).1 h
    obtain ⟨hcfg, hmode, hother⟩ := slideTo_keeps hslide
    have seg : ∀ j ∈ rest, u.seg j = s.seg j := fun j hj => hother j (by rintro rfl; exact hi hj)
    have size (d : Descriptor) : u.regionSize d = s.regionSize d := by
      rw [State.regionSize, hcfg, hmode]; rfl
    have same : packing u rest = packing s rest := funext fun cur =>
      packing_congr fun j hj => by rw [size, seg j hj]
    have named : ∀ p ∈ packing s rest (cur + s.regionSize (s.seg i)), p.1 ∈ rest := fun p hp => by
      simpa using List.mem_map_of_mem (f := Prod.fst) hp
    calc t.trace
        = u.trace ++ packingNotices u (packing u rest (cur + s.regionSize (s.seg i))) :=
          ih (by rw [hmode]; exact hp) hnodup hrest
      _ = s.trace ++ packingNotices s [(i, cur)] ++
            packingNotices s (packing s rest (cur + s.regionSize (s.seg i))) := by
          rw [slideTo_trace hp hslide, same,
            packingNotices_congr (fun p hp => seg p.1 (named p hp)) size]
      _ = s.trace ++ packingNotices s (packing s (i :: rest) cur) := by
          rw [List.append_assoc, ← packingNotices_append]
          rfl

/-- In paged mode compaction sends no notice (R163). -/
theorem compact_trace_of_pag (hp : s.mode.pag = true) (h : compact s = .ok () t) :
    t.trace = s.trace := by
  obtain ⟨moves, htrace, -, hsilent⟩ := (compactFrom_moves h).notices
  rw [htrace, hsilent hp, List.append_nil]

/-- Every address between the ends of a packing lies in one of its regions. -/
theorem packing_covers {order : List Nat} {cur x : Nat} (hlow : cur ≤ x)
    (hhigh : x < cur + (order.map fun i => s.regionSize (s.seg i)).sum) :
    ∃ p ∈ packing s order cur, p.2 ≤ x ∧ x < p.2 + s.regionSize (s.seg p.1) := by
  induction order generalizing cur with
  | nil => simp only [List.map_nil, List.sum_nil] at hhigh; omega
  | cons i rest ih =>
    rw [List.map_cons, List.sum_cons] at hhigh
    by_cases hfirst : x < cur + s.regionSize (s.seg i)
    · exact ⟨(i, cur), List.mem_cons_self .., hlow, hfirst⟩
    · obtain ⟨p, hp, hin⟩ := ih (cur := cur + s.regionSize (s.seg i)) (by omega) (by omega)
      exact ⟨p, List.mem_cons_of_mem _ hp, hin⟩

/-- State `t` is `s` compacted: the regions of `ValidOrder` packed from address 0, and every other descriptor as it was (R163). -/
structure State.Packed (s t : State) : Prop where
  rearranged : s.Rearranged t
  sound : t.Sound
  kept : ∀ i, (s.seg i).valid = false → t.seg i = s.seg i
  based : ∀ p ∈ packing s (validOrder s) 0, t.seg p.1 = { s.seg p.1 with base := toReg32 p.2 }
  /-- The space above the regions is free. -/
  above : ∀ size, usedBytes s + size ≤ s.cfg.memSize → freeAt t size (usedBytes s)

theorem State.Sound.usedBytes_le (h : s.Sound) : usedBytes s ≤ s.cfg.memSize := by
  have := h.totalFree_add_usedBytes
  omega

/-- Compaction of a sound state completes and packs it (R163, R176). -/
theorem compact_packs (h : s.Sound) : ∃ t, compact s = .ok () t ∧ s.Packed t := by
  obtain ⟨t, ht, hre, hsound, habove⟩ := compact_completes h
  obtain ⟨t', ht', -, hkept, hbased⟩ := compactFrom_completes (s := s) (order := validOrder s)
    (cur := 0) h.validOrder_nodup (fun i hi => by
      have hv := (h.mem_validOrder i).1 hi
      exact ⟨h.lt_of_valid hv, (h.seg i (h.lt_of_valid hv) hv).1⟩)
    ((Nat.zero_add _).trans_le h.usedBytes_le)
  obtain ⟨-, rfl⟩ := Res.ok.inj (ht.symm.trans ht')
  exact ⟨t, ht, hre, hsound, fun i hv => hkept i (by simp [h.mem_validOrder, hv]), hbased, habove⟩

theorem packed_of_compact (h : s.Sound) (hc : compact s = .ok () t) : s.Packed t := by
  obtain ⟨t', ht', hpacked⟩ := compact_packs h
  obtain ⟨-, rfl⟩ := Res.ok.inj (hc.symm.trans ht')
  exact hpacked

/-- Every valid descriptor has a place in the packing, below the end of the regions. -/
theorem State.Sound.packing_place (h : s.Sound) {i : Nat} (hv : (s.seg i).valid = true) :
    ∃ c, (i, c) ∈ packing s (validOrder s) 0 := by
  have hi := (h.mem_validOrder i).2 hv
  rw [← packing_selectors s (validOrder s) 0] at hi
  obtain ⟨⟨i, c⟩, hp, rfl⟩ := List.mem_map.1 hi
  exact ⟨c, hp⟩

/-- Compaction evicts no descriptor (R163). -/
theorem State.Packed.valid (h : s.Packed t) (hs : s.Sound) (i : Nat) :
    (t.seg i).valid = (s.seg i).valid := by
  cases hv : (s.seg i).valid with
  | false => rw [h.kept i hv, hv]
  | true =>
    obtain ⟨c, hp⟩ := hs.packing_place hv
    rw [h.based _ hp]
    exact hv

/-- After a compaction every address below the end of the regions lies in a valid region (R163). -/
theorem State.Packed.covers (h : s.Packed t) (hs : s.Sound) {x : Nat} (hx : x < usedBytes s) :
    ∃ i, (t.seg i).valid = true ∧ (t.seg i).base.toNat ≤ x ∧
      x < (t.seg i).base.toNat + t.regionSize (t.seg i) := by
  obtain ⟨⟨i, c⟩, hp, hlow, hhigh⟩ := packing_covers (s := s) (order := validOrder s) (cur := 0)
    (Nat.zero_le x) (by rwa [Nat.zero_add])
  dsimp only at hlow hhigh
  have hi : i ∈ validOrder s := by simpa using List.mem_map_of_mem (f := Prod.fst) hp
  have hend := ((packing_inOrder s (validOrder s) 0).1 _ hp).2
  have hused : c + s.regionSize (s.seg i) ≤ s.cfg.memSize :=
    (hend.trans_eq (Nat.zero_add _)).trans hs.usedBytes_le
  have hbase : (t.seg i).base.toNat = c := by
    rw [h.based _ hp]
    exact (toReg32_inside hs.params hused).2 (by omega)
  refine ⟨i, ?_, hbase.trans_le hlow, ?_⟩
  · rw [h.valid hs]
    exact (hs.mem_validOrder i).1 hi
  · rw [hbase, h.rearranged.regionSize_seg]
    exact hhigh

/-- A compacted state has one gap, above all regions, or none (R163). -/
theorem State.Packed.gaps_eq (h : s.Packed t) (hs : s.Sound) : gaps t =
    if totalFree s = 0 then [] else [(s.cfg.memSize - totalFree s, s.cfg.memSize)] := by
  have hfree := hs.totalFree_add_usedBytes
  have hcfg := h.rearranged.cfg
  have high : ∀ g ∈ gaps t, usedBytes s ≤ g.1 ∧ g.1 < g.2 ∧ g.2 ≤ s.cfg.memSize := by
    intro g hg
    obtain ⟨hpos, htop, hapart⟩ := h.sound.gap_free hg
    refine ⟨?_, hpos, hcfg ▸ htop⟩
    by_contra hlow
    obtain ⟨i, hv, hbase, hend⟩ := h.covers hs (not_le.1 hlow)
    have := hapart i hv (by omega)
    omega
  split
  next hfull =>
    refine List.eq_nil_iff_forall_not_mem.2 fun g hg => ?_
    have := high g hg
    omega
  next hroom =>
    obtain ⟨g, hg, hlow, hhigh⟩ := h.sound.gap_of_freeAt (size := totalFree s) (by omega)
      (h.above (totalFree s) (by omega))
    obtain ⟨hused, -, htop⟩ := high g hg
    have ordered := h.sound.gaps_ordered
    obtain ⟨earlier, later, hsplit⟩ := List.append_of_mem hg
    rw [hsplit] at ordered high ⊢
    obtain ⟨-, hlater, hearlier⟩ := List.pairwise_append.1 ordered
    have none_before : earlier = [] := List.eq_nil_iff_forall_not_mem.2 fun g' hg' => by
      have := hearlier g' hg' g (List.mem_cons_self ..)
      have := high g' (List.mem_append_left _ hg')
      omega
    have none_after : later = [] := List.eq_nil_iff_forall_not_mem.2 fun g' hg' => by
      have := (List.pairwise_cons.1 hlater).1 g' hg'
      have := high g' (List.mem_append_right _ (List.mem_cons_of_mem _ hg'))
      omega
    have whole : g = (s.cfg.memSize - totalFree s, s.cfg.memSize) :=
      Prod.ext (by simp only []; omega) (by simp only []; omega)
    rw [none_before, none_after, whole, List.nil_append]

/-- Settles O38: sliding the regions in address order packs them, onto no byte of a later one. -/
theorem compactionPacksAndKeepsBytes : Obligations.CompactionPacksAndKeepsBytes := by
  intro s h
  obtain ⟨t, ht, hpacked⟩ := compact_packs h
  have hre := hpacked.rearranged
  refine ⟨t, ht, hpacked.gaps_eq h, fun i => ?members, h.validOrder_ordered, hpacked.based,
    hpacked.kept, hre.frame, ?notices, fun hp i _ hv k hk => ?bytes, fun hp => ?paged⟩
  case members =>
    exact (h.mem_validOrder i).trans ⟨fun hv => ⟨h.lt_of_valid hv, hv⟩, And.right⟩
  case notices =>
    cases hp : s.mode.pag with
    | true => exact (compact_trace_of_pag hp ht).trans (List.append_nil _).symm
    | false => exact compactFrom_trace hp h.validOrder_nodup ht
  case bytes =>
    exact compact_carriesRegions h hp ht i ((hpacked.valid h i).trans hv) k
      (by rwa [State.regionSize_of_not_pag hp])
  case paged =>
    conv_lhs => rw [hre.frame, compact_mem_of_pag hp ht, compact_trace_of_pag hp ht]

/-! ## Allocation (R165, R169) -/

/-- What allocation compacts is the state itself or what eviction makes of it (R165). -/
theorem rearranged_before_compaction (h : s.Sound) {size : Nat} (hsize : size ≤ s.cfg.memSize) :
    s.Rearranged (if size ≤ totalFree s then s else evictUntil size (victimOrder s) s) ∧
      (if size ≤ totalFree s then s else evictUntil size (victimOrder s) s).Sound := by
  split
  · exact ⟨.refl s, h⟩
  · obtain ⟨hre, hsound, -⟩ := evictUntil_makes_room h hsize
      (fun i hv => (h.mem_victimOrder i).2 hv)
      fun i hi => h.lt_of_valid ((h.mem_victimOrder i).1 hi)
    exact ⟨hre, hsound⟩

/-- Where no gap fits, the regions are packed and the request is placed on top of them, after evictions only where too little was free (R165). -/
theorem allocate_on_top (h : s.Sound) {size a : Nat} (hsize : size ≤ s.cfg.memSize)
    (hfit : firstFit size s = none) (ha : allocate size s = .ok a t) :
    a = s.cfg.memSize - totalFree t ∧
      compact (if size ≤ totalFree s then s else evictUntil size (victimOrder s) s) = .ok () t := by
  obtain ⟨hsome, -⟩ | ⟨-, hfit', hcompact⟩ := (allocate_eq_ok _ _ _ _).1 ha
  · simp [hfit] at hsome
  refine ⟨?_, hcompact⟩
  obtain ⟨hre, hsound⟩ := rearranged_before_compaction h hsize
  generalize (if size ≤ totalFree s then s else evictUntil size (victimOrder s) s) = u
    at hcompact hre hsound
  have hgaps := (packed_of_compact hsound hcompact).gaps_eq hsound
  obtain ⟨g, hfind, rfl⟩ := Option.map_eq_some_iff.1 hfit'
  have hg := List.mem_of_find?_eq_some hfind
  have free : totalFree t = ((gaps t).map fun g => g.2 - g.1).sum := rfl
  rw [hgaps] at hg free
  split at hg
  · nomatch hg
  next hroom =>
    obtain rfl := List.mem_singleton.1 hg
    have := hsound.totalFree_add_usedBytes
    rw [if_neg hroom, List.map_singleton, List.sum_singleton] at free
    rw [free, hre.cfg]
    omega

/-- Settles O39: eviction ends with enough free, and compaction joins what is free into one gap. -/
theorem allocationAlwaysFindsRoom : Obligations.AllocationAlwaysFindsRoom := by
  intro s size h hpos hsize
  obtain ⟨a, t, ha, hre, hsound, hfree⟩ := allocate_completes h hpos hsize
  refine ⟨a, t, ha, hfree, hsound.seg, hre.frame, hre.seg, fun hroom => ?enough, fun b hb => ?first,
    fun hfit => allocate_on_top h hsize hfit ha⟩
  case enough =>
    obtain ⟨-, rfl⟩ | ⟨-, -, hcompact⟩ := (allocate_eq_ok _ _ _ _).1 ha
    · exact fun _ => rfl
    · rw [if_pos hroom] at hcompact
      exact (packed_of_compact h hcompact).valid h
  case first =>
    obtain ⟨hsome, rfl⟩ | ⟨hnone, -⟩ := (allocate_eq_ok _ _ _ _).1 ha
    · exact ⟨Option.some.inj (hsome.symm.trans hb), rfl⟩
    · simp [hb] at hnone

end
end Sys2Proof.Machine

namespace Sys2Proof.Machine

/-! ## Where OutOfMemory is raised (R166, R245) -/

/-- A piece of work raises OutOfMemory only where `P` holds. -/
def Res.OutOfMemoryOnlyIf {α : Type} (P : Prop) : Res α → Prop
  | .ok _ _ => True
  | .raised k _ => k = .outOfMemory → P
  | .exhausted => True
  | .stop _ => True

section
variable {α β : Type} {P : Prop}

theorem Res.OutOfMemoryOnlyIf.of_not_raised {r : Res α} (h : ∀ k t, r ≠ .raised k t) :
    r.OutOfMemoryOnlyIf P := by
  cases r with
  | raised k t => exact absurd rfl (h k t)
  | _ => trivial

theorem Res.OutOfMemoryOnlyIf.mono {Q : Prop} {r : Res α} (hr : r.OutOfMemoryOnlyIf P)
    (h : P → Q) : r.OutOfMemoryOnlyIf Q := by
  cases r with
  | raised _ _ => exact h ∘ hr
  | _ => trivial

theorem Res.OutOfMemoryOnlyIf.bind {r : Res α} {g : α → State → Res β}
    (hr : r.OutOfMemoryOnlyIf P) (hg : ∀ a u, (g a u).OutOfMemoryOnlyIf P) :
    (r.bind g).OutOfMemoryOnlyIf P := by
  cases r with
  | ok a u => exact hg a u
  | raised _ _ => exact hr
  | exhausted => trivial
  | stop _ => trivial

/-! ### Access primitives and stamps -/

theorem memRead_outOfMemory (addr n : Nat) (s : State) : (memRead addr n s).OutOfMemoryOnlyIf P :=
  .of_not_raised fun k t => memRead_ne_raised addr n s t k

theorem memWrite_outOfMemory (addr : Nat) (v : List Byte) (s : State) :
    (memWrite addr v s).OutOfMemoryOnlyIf P :=
  .of_not_raised fun k t => memWrite_ne_raised addr v s t k

theorem diskRead_outOfMemory (off n : Nat) (s : State) : (diskRead off n s).OutOfMemoryOnlyIf P :=
  .of_not_raised fun k t => diskRead_ne_raised off n s t k

theorem stampSegment_outOfMemory (i : Nat) (s : State) :
    (stampSegment i s).OutOfMemoryOnlyIf P :=
  .of_not_raised fun k t => stampSegment_ne_raised i s t k

theorem stampFrame_outOfMemory (f : Nat) (s : State) : (stampFrame f s).OutOfMemoryOnlyIf P :=
  .of_not_raised fun k t => stampFrame_ne_raised f s t k

/-! ### The segment table -/

theorem slideTo_outOfMemory (i cur : Nat) (s : State) : (slideTo i cur s).OutOfMemoryOnlyIf P := by
  unfold slideTo
  dsimp only
  split_ifs
  · trivial
  · exact (memRead_outOfMemory _ _ s).bind fun _ u => (memWrite_outOfMemory _ _ u).bind fun _ _ =>
      trivial
  · trivial

theorem compactFrom_outOfMemory (order : List Nat) (cur : Nat) (s : State) :
    (compactFrom order cur s).OutOfMemoryOnlyIf P := by
  induction order generalizing cur s with
  | nil => trivial
  | cons i rest ih => exact (slideTo_outOfMemory i cur s).bind fun _ u => ih _ u

theorem allocate_outOfMemory (size : Nat) (s : State) : (allocate size s).OutOfMemoryOnlyIf P := by
  unfold allocate
  split
  · trivial
  refine (compactFrom_outOfMemory _ _ _).bind fun _ u => ?_
  split
  · trivial
  · trivial

/-- The capacity test is the one place where OutOfMemory is raised (R166). -/
theorem allocateChecked_outOfMemory {size : Nat} {s : State} (h : s.cfg.memSize < size → P) :
    (allocateChecked size s).OutOfMemoryOnlyIf P := by
  unfold allocateChecked
  split
  next hsize => exact fun _ => h hsize
  next => exact allocate_outOfMemory size s

theorem segmentLoad_outOfMemory {i : Nat} {s : State}
    (h : s.cfg.memSize < (s.seg i).limit.toNat → P) : (segmentLoad i s).OutOfMemoryOnlyIf P :=
  (allocateChecked_outOfMemory h).bind fun _ u => (diskRead_outOfMemory _ _ u).bind fun _ w =>
    (memWrite_outOfMemory _ _ w).bind fun _ _ => trivial

/-! ### The page table -/

theorem chooseFrame_outOfMemory (s : State) : (chooseFrame s).OutOfMemoryOnlyIf P := by
  unfold chooseFrame
  split
  · trivial
  refine Res.OutOfMemoryOnlyIf.bind ?_ fun _ _ => trivial
  unfold evictPage raiseFatal
  dsimp only
  split
  · exact nofun
  · trivial

theorem pageLookup_outOfMemory (v : Nat) (s : State) : (pageLookup v s).OutOfMemoryOnlyIf P := by
  unfold pageLookup raiseFatal
  dsimp only
  split_ifs
  · exact nofun
  · exact nofun
  · trivial
  · exact nofun
  · trivial

theorem pageFault_outOfMemory (v : Nat) (s : State) : (pageFault v s).OutOfMemoryOnlyIf P :=
  (chooseFrame_outOfMemory s).bind fun _ u => (diskRead_outOfMemory _ _ u).bind fun _ w =>
    (memWrite_outOfMemory _ _ w).bind fun _ _ => trivial

theorem ensurePage_outOfMemory (visit : Bool) (v : Nat) (s : State) :
    (ensurePage visit v s).OutOfMemoryOnlyIf P := by
  refine (pageLookup_outOfMemory v s).bind fun found u => Res.OutOfMemoryOnlyIf.bind ?_ fun f w =>
    (stampFrame_outOfMemory f w).bind fun _ _ => trivial
  cases found with
  | some f => trivial
  | none => exact pageFault_outOfMemory v _

theorem populatePages_outOfMemory (v n : Nat) (s : State) :
    (populatePages v n s).OutOfMemoryOnlyIf P := by
  unfold populatePages
  split
  · trivial
  · trivial

theorem loadPages_outOfMemory (n v : Nat) (s : State) : (loadPages n v s).OutOfMemoryOnlyIf P := by
  induction n generalizing v s with
  | zero => trivial
  | succ n ih => exact (ensurePage_outOfMemory false v s).bind fun _ u => ih _ u

theorem segmentRegister_outOfMemory {i : Nat} {s : State}
    (h : s.cfg.memSize < halfCount s.cfg (s.seg i) * s.cfg.pageSize → P) :
    (segmentRegister i s).OutOfMemoryOnlyIf P :=
  (allocateChecked_outOfMemory h).bind fun _ _ => (populatePages_outOfMemory _ _ _).bind fun _ w =>
    (loadPages_outOfMemory _ _ w).bind fun _ _ => trivial

/-! ### READ -/

theorem readReal_outOfMemory (off len : Word32) (s : State) :
    (readReal off len s).OutOfMemoryOnlyIf P := by
  unfold readReal
  dsimp only
  split_ifs
  · exact nofun
  · trivial
  · exact (diskRead_outOfMemory _ _ _).bind fun _ _ => trivial

theorem segmentChecks_outOfMemory (sel : Nat) (off len : Word32) (s : State) :
    (segmentChecks sel off len s).OutOfMemoryOnlyIf P := by
  unfold segmentChecks
  split_ifs
  · exact nofun
  · exact nofun
  · exact nofun
  · exact nofun
  · trivial

/-- A segment phase raises OutOfMemory only for a segment that is not resident and does not fit the memory (R126, R166). -/
theorem segmentPhase_outOfMemoryOnlyIf (sel : Nat) (s : State) :
    (segmentPhase sel s).OutOfMemoryOnlyIf
      ((s.seg sel).valid = false ∧ s.cfg.memSize < s.regionSize (s.seg sel)) := by
  unfold segmentPhase
  split
  · exact stampSegment_outOfMemory sel s
  next hv =>
    have invalid : (s.seg sel).valid = false := by simpa using hv
    refine Res.OutOfMemoryOnlyIf.bind ?_ fun _ u => stampSegment_outOfMemory sel u
    unfold segmentFault
    split
    next hp =>
      refine segmentRegister_outOfMemory fun hsize => ⟨invalid, ?_⟩
      rwa [State.regionSize_of_pag (s := s) hp]
    next hp =>
      refine segmentLoad_outOfMemory fun hsize => ⟨invalid, ?_⟩
      rwa [State.regionSize_of_not_pag (s := s) (by simpa using hp)]

theorem readChunks_outOfMemory (turns lin remain : Nat) (s : State) :
    (readChunks turns lin remain s).OutOfMemoryOnlyIf P := by
  induction turns generalizing lin remain s with
  | zero => trivial
  | succ turns ih =>
    unfold readChunks
    split
    · trivial
    refine Res.OutOfMemoryOnlyIf.bind ?_ fun _ _ => ih _ _ _
    exact (ensurePage_outOfMemory true _ _).bind fun _ _ => (memRead_outOfMemory _ _ _).bind
      fun _ _ => trivial

theorem readAccess_outOfMemory (sel : Nat) (off len : Word32) (s : State) :
    (readAccess sel off len s).OutOfMemoryOnlyIf P := by
  unfold readAccess
  split
  · exact readChunks_outOfMemory _ _ _ _
  · exact (memRead_outOfMemory _ _ _).bind fun _ _ => trivial

/-- READ's work raises OutOfMemory only where its checks pass and its segment phase does (R124, R166). -/
theorem readWork_outOfMemoryOnlyIf (la : LogicalAddr) (len : Word32) (s : State) :
    (readWork la len s).OutOfMemoryOnlyIf (s.mode.seg = true ∧ readable la len s ∧
      (s.seg (selOf la).toNat).valid = false ∧
      s.cfg.memSize < s.regionSize (s.seg (selOf la).toNat)) := by
  unfold readWork
  dsimp only
  split
  next hseg =>
    unfold readTranslated
    cases hchecks : segmentChecks (selOf la).toNat (offOf la) len
        ((s.latchSelector la).enter .segmentLookup) with
    | ok _ u =>
      obtain ⟨hlt, hpop, hoff, hlen, rfl⟩ := (segmentChecks_eq_ok _ _ _ _ _).1 hchecks
      rw [Res.bind_ok]
      refine Res.OutOfMemoryOnlyIf.bind ?_ fun _ w => readAccess_outOfMemory _ _ _ w
      exact (segmentPhase_outOfMemoryOnlyIf _ _).mono fun h => ⟨hseg, ⟨hlt, hpop, hoff, hlen⟩, h⟩
    | raised k u =>
      have checked := segmentChecks_outOfMemory (P := False) (selOf la).toNat (offOf la) len
        ((s.latchSelector la).enter .segmentLookup)
      rw [hchecks] at checked
      exact fun hk => (checked hk).elim
    | exhausted => trivial
    | stop _ => trivial
  next => exact readReal_outOfMemory _ _ _

end

/-- Settles O22: the capacity test before allocation is the one place where OutOfMemory is raised, and nothing is changed before it. -/
theorem outOfMemoryExactlyForOversizedRegions :
    Obligations.OutOfMemoryExactlyForOversizedRegions := by
  intro s la len hf
  refine ⟨fun hseg hread hv hsize => ?_, fun t ht hk => ?_⟩
  · obtain ⟨hlt, hpop, hoff, hlen⟩ := hread
    have checks := (segmentChecks_eq_ok (selOf la).toNat (offOf la) len (s.looking la len) _).2
      ⟨hlt, hpop, hoff, hlen, rfl⟩
    have phase := segmentPhase_outOfMemory (s := s.looking la len) hv hsize
    have work : readTranslated (selOf la).toNat (offOf la) len
        (((s.accept 0).latchRead la len).latchSelector la) =
        .raised .outOfMemory ((s.looking la len).enter .segmentFault) := by
      rw [readTranslated, State.enter_segmentLookup, checks, Res.bind_ok, phase, Res.bind_raised]
    rw [exec_read_translated hf hseg, work]
    exact endsUnchanged_respond rfl .outOfMemory
  · obtain ⟨-, u, -, rfl⟩ | ⟨k, u, hwork, rfl⟩ | ⟨b, rfl⟩ := exec_next_cases ht
    · nomatch hk
    · have only := readWork_outOfMemoryOnlyIf la len (Instr.entry (.read la len) s)
      rw [show readWork la len _ = _ from hwork] at only
      exact only hk
    · nomatch hk

end Sys2Proof.Machine

namespace Sys2Proof.Machine

/-! PROOFS. The page table: the choice of a frame, `EnsurePage` on a hit and on a fault, and the three consistency checks. -/

section
variable {s t u : State} {f v : Nat}

/-! ## The choice of a frame (R194 to R196) -/

/-- A frame that holds no page makes the lowest such the choice, and nothing changes (R194). -/
theorem chooseFrame_of_free (h : chooseFrame s = .ok f t)
    (hsome : ∃ g < s.cfg.numFrames, (s.frame g).resident = false) :
    t = s ∧ (s.frame f).resident = false ∧ ∀ g < f, (s.frame g).resident = true := by
  obtain ⟨hfound, rfl⟩ | ⟨hfull, -, -⟩ := (chooseFrame_eq_ok _ _ _).1 h
  · obtain ⟨-, -, hres, hlower⟩ := (freeFrame_eq_some _ _ _ _).1 hfound
    exact ⟨rfl, hres, fun g hg => hlower g (Nat.zero_le g) hg⟩
  · obtain ⟨g, hg, hres⟩ := hsome
    have held := (freeFrame_eq_none _ _ _).1 hfull g (Nat.zero_le g) (by omega)
    simp [hres] at held

/-- With every frame in use no free one is found (R195). -/
theorem freeFrame_of_full (hall : ∀ g < s.cfg.numFrames, (s.frame g).resident = true) :
    freeFrame s s.cfg.numFrames 0 = none :=
  (freeFrame_eq_none _ _ _).2 fun g _ hg => hall g (by omega)

/-- With every frame in use the choice is the oldest, and its page is evicted (R195, R196). -/
theorem chooseFrame_of_full (hall : ∀ g < s.cfg.numFrames, (s.frame g).resident = true) :
    chooseFrame s = (evictPage (oldestFrame s) s).bind fun _ t => .ok (oldestFrame s) t := by
  rw [chooseFrame, freeFrame_of_full hall]

/-- The frame to be freed has the oldest timestamp, lowest first (R195). -/
theorem oldestFrame_ts_le (s : State) {g : Nat} (hg : g < s.cfg.numFrames) :
    (s.frame (oldestFrame s)).ts < (s.frame g).ts ∨
      (s.frame (oldestFrame s)).ts = (s.frame g).ts ∧ oldestFrame s ≤ g := by
  rw [BitVec.lt_def, ← BitVec.toNat_inj]
  exact oldestFrame_before s hg

/-- Settles O40: a frame that holds no page is chosen as it is; with all in use the choice is the oldest, and the eviction writes its entry and its page's alone. -/
theorem frameChoiceIsFreeElseOldest : Obligations.FrameChoiceIsFreeElseOldest := by
  intro s h
  obtain ⟨f, t, hchoose, hf, -⟩ := chooseFrame_completes h
  refine ⟨f, t, hchoose, hf, fun hsome => chooseFrame_of_free hchoose hsome, fun hall => ?_⟩
  rw [chooseFrame_of_full hall, Res.bind_eq_ok] at hchoose
  obtain ⟨⟨⟩, t', hevict, hanswer⟩ := hchoose
  obtain ⟨rfl, rfl⟩ := Res.ok.inj hanswer
  obtain ⟨-, -, rfl⟩ := (evictPage_eq_ok _ _ _).1 hevict
  refine ⟨fun g hg => oldestFrame_ts_le s hg, rfl, ?page, fun v hv => ?pages, ?frame,
    fun g hg => ?frames⟩
  case page => rw [State.setFrame_page, State.setPage_page_same]
  case pages => rw [State.setFrame_page, State.setPage_page_other _ _ _ _ hv]
  case frame => rw [State.setFrame_frame_same]
  case frames => exact State.setFrame_frame_other _ _ _ _ hg

/-! ## The entries of the page table under a page fault (R196, R198) -/

/-- The entry of page `w` is as it was, or named frame `f` and is now marked not resident (R196). -/
def State.KeepsOrFreesPage (s : State) (f w : Nat) (t : State) : Prop :=
  t.page w = s.page w ∨ (s.page w).frame = f ∧ t.page w = { s.page w with resident := false }

/-- The choice of a frame marks at most the page in that frame not resident (R194 to R196). -/
theorem chooseFrame_keepsOrFreesPage (h : chooseFrame s = .ok f t) (w : Nat) :
    s.KeepsOrFreesPage f w t := by
  obtain ⟨-, rfl⟩ | ⟨-, rfl, hevict⟩ := (chooseFrame_eq_ok _ _ _).1 h
  · exact .inl rfl
  obtain ⟨-, hframe, rfl⟩ := (evictPage_eq_ok _ _ _).1 hevict
  by_cases hw : w = (s.frame (oldestFrame s)).owner
  · subst hw
    exact .inr ⟨hframe, by simp⟩
  · exact .inl (State.setPage_page_other _ _ _ _ hw)

/-- A page fault makes its page resident in the frame it answers, and marks at most the page that was there not resident (R196, R198). -/
theorem pageFault_entries (h : pageFault v s = .ok f t) :
    t.page v = { s.page v with frame := f, resident := true } ∧
      ∀ w, w ≠ v → s.KeepsOrFreesPage f w t := by
  obtain ⟨u, w, hchoose, -, hw, rfl⟩ := (pageFault_eq_ok _ _ _ _).1 h
  have freed := chooseFrame_keepsOrFreesPage hchoose
  have page (x : Nat) : w.page x = u.page x := by
    rw [memWrite_eq_of_length_pos (by simpa using u.cfg.pageSize_pos) hw]
    rfl
  refine ⟨?_, fun x hx => ?_⟩
  · rw [State.setFrame_page, State.setPage_page_same, page]
    obtain hsame | ⟨-, hfreed⟩ := freed v
    · rw [hsame]
    · rw [hfreed]
  · rw [State.KeepsOrFreesPage, State.setFrame_page, State.setPage_page_other _ _ _ _ hx, page]
    exact freed x

/-! ## `EnsurePage` (R191, R192, R198, R199) -/

/-- A chunk's page fault begins with the sequencer's move to PAGE_FAULT, a registration's with none (R121). -/
theorem visit_enter_eq (visit : Bool) (s : State) :
    ∃ q, (if visit then s.enter .pageFault else s) = { s with seq := q } := by
  cases visit with
  | true => exact ⟨(s.enter .pageFault).seq, rfl⟩
  | false => exact ⟨s.seq, rfl⟩

/-- `EnsurePage` of a populated page answers a frame of the table, in a sound state before the end of CLOCK (R191). -/
theorem ensurePage_completes (h : s.Sound) (hroom : s.clock ≠ BitVec.allOnes 64) (visit : Bool)
    (hv : v < s.cfg.numVPages) (hpop : (s.page v).populated = true) :
    ∃ f t, ensurePage visit v s = .ok f t ∧ f < s.cfg.numFrames := by
  by_cases hres : (s.page v).resident = true
  · obtain ⟨hlt, hheld, howner⟩ := h.page.1 v hv hres
    have hit := (pageLookup_eq_some v _ s s).2 ⟨hv, hpop, hres, rfl, hlt, hheld, howner, rfl⟩
    exact ⟨_, _, (ensurePage_eq_ok _ _ _ _ _).2
      ⟨s, .inl ⟨hit, rfl⟩, (stampFrame_eq_ok _ _ _ _).2 ⟨hroom, rfl⟩⟩, hlt⟩
  · rw [Bool.not_eq_true] at hres
    have miss := (pageLookup_eq_none v s s).2 ⟨hv, hpop, hres, rfl⟩
    obtain ⟨q, hq⟩ := visit_enter_eq visit s
    have entered : ({ s with seq := q } : State).Sound := { h with }
    obtain ⟨f, u, hfault, hf, hu, -⟩ := pageFault_completes entered hv hres
    have clock : u.clock = s.clock := by rw [hu]
    exact ⟨f, _, (ensurePage_eq_ok _ _ _ _ _).2
      ⟨u, .inr ⟨miss, by rw [hq]; exact hfault⟩, (stampFrame_eq_ok _ _ _ _).2
        ⟨by rw [clock]; exact hroom, rfl⟩⟩, hf⟩

/-- `EnsurePage` leaves its page populated and resident in the frame it answers, and marks at most the page that was there not resident (R191, R196). -/
theorem ensurePage_entries {visit : Bool} (h : ensurePage visit v s = .ok f t) :
    t.page v = ⟨true, true, f⟩ ∧ ∀ w, w ≠ v → s.KeepsOrFreesPage f w t := by
  obtain ⟨u, hlookup, hstamp⟩ := (ensurePage_eq_ok _ _ _ _ _).1 h
  obtain ⟨-, rfl⟩ := (stampFrame_eq_ok _ _ _ _).1 hstamp
  obtain ⟨hhit, rfl⟩ | ⟨hmiss, hfault⟩ := hlookup
  · obtain ⟨-, hpop, hres, rfl, -⟩ := (pageLookup_eq_some _ _ _ _).1 hhit
    refine ⟨?_, fun _ _ => .inl rfl⟩
    calc u.page v = ⟨(u.page v).populated, (u.page v).resident, (u.page v).frame⟩ := rfl
      _ = ⟨true, true, (u.page v).frame⟩ := by rw [hpop, hres]
  · obtain ⟨-, hpop, -⟩ := (pageLookup_eq_none _ _ _).1 hmiss
    obtain ⟨q, hq⟩ := visit_enter_eq visit s
    rw [hq] at hfault
    obtain ⟨hentry, hothers⟩ := pageFault_entries hfault
    refine ⟨?_, hothers⟩
    calc u.page v = ⟨(s.page v).populated, true, f⟩ := hentry
      _ = ⟨true, true, f⟩ := by rw [hpop]

/-- `EnsurePage` moves CLOCK on by one (R199). -/
theorem ensurePage_clock {visit : Bool} (h : ensurePage visit v s = .ok f t) :
    t.clock = s.clock + 1 := by
  obtain ⟨u, rfl, -⟩ := ensurePage_hit_or_loads h
  rfl

/-- `EnsurePage` of a page that is not resident writes both page tables, memory and the sequencer's registers, and logs the events of one page load (R191, R198). -/
theorem ensurePage_frame_of_fault {visit : Bool} (hres : (s.page v).resident = false)
    (h : ensurePage visit v s = .ok f t) : t = { s with
      clock := s.clock + 1
      pt := t.pt
      rpt := t.rpt
      mem := t.mem
      seq := t.seq
      trace := s.trace ++ visitEvents s.cfg ⟨v, f, true⟩ } := by
  obtain ⟨u, rfl, -, ⟨hhit, -⟩ | ⟨-, hloads⟩⟩ := ensurePage_hit_or_loads h
  · simp [hres] at hhit
  · obtain ⟨q, hq⟩ := visit_enter_eq visit s
    rw [hq] at hloads
    rw [hloads.frame]
    rfl

/-- The frame of an address that lies before or behind frame `f` is another frame (R95). -/
theorem frame_ne_of_outside {size a : Nat} (hsize : 0 < size)
    (ha : a < f * size ∨ f * size + size ≤ a) : a / size ≠ f := by
  rw [Ne, Nat.div_eq_iff hsize]
  omega

/-- Settles O41: `EnsurePage` completes, and what it leaves is one visit of its page, a hit or one page load, with the stamp. -/
theorem ensurePageLoadsAndStamps : Obligations.EnsurePageLoadsAndStamps := by
  intro s v visit h hroom hv hpop
  obtain ⟨f, t, hensure, hf⟩ := ensurePage_completes h hroom visit hv hpop
  have visited := ensurePage_visitsPage hensure
  obtain ⟨hentry, hothers⟩ := ensurePage_entries hensure
  have held : t.frame f = ⟨true, v, s.clock + 1⟩ := by
    rw [visited.frame, ensurePage_clock hensure]
  refine ⟨f, t, hensure, hf, hentry, held, fun hres => ?hit, fun hres => ?fault⟩
  case hit =>
    obtain ⟨hframe, rfl⟩ := ensurePage_of_resident hres hensure
    exact ⟨hframe, rfl, visited.frames⟩
  case fault =>
    rw [hres] at visited
    exact ⟨ensurePage_frame_of_fault hres hensure, visited.loaded rfl,
      fun a ha => visited.kept a fun _ => frame_ne_of_outside s.cfg.pageSize_pos ha,
      visited.frames, hothers⟩

/-! ## The consistency checks (R193, R196) -/

/-- A lookup of an unpopulated page of the table is inconsistent (R191, R193). -/
theorem pageLookup_of_unpopulated (hv : v < s.cfg.numVPages) (hpop : (s.page v).populated = false) :
    pageLookup v s = raiseFatal s := by
  rw [pageLookup, if_neg (Nat.not_le.2 hv), if_pos hpop]

/-- A lookup of a resident page whose frame is not real, free, or another page's is inconsistent (R193). -/
theorem pageLookup_of_broken (hv : v < s.cfg.numVPages) (hpop : (s.page v).populated = true)
    (hres : (s.page v).resident = true)
    (hbroken : s.cfg.numFrames ≤ (s.page v).frame ∨ (s.frame (s.page v).frame).resident = false ∨
      (s.frame (s.page v).frame).owner ≠ v) : pageLookup v s = raiseFatal s := by
  rw [pageLookup, if_neg (Nat.not_le.2 hv), if_neg (by simp [hpop]), if_neg (by simp [hres]),
    if_pos hbroken]

/-- `EnsurePage` ends where its lookup finds the tables inconsistent (R191, R193). -/
theorem ensurePage_of_inconsistent (visit : Bool) (h : pageLookup v s = raiseFatal s) :
    ensurePage visit v s = raiseFatal s := by
  rw [ensurePage, h]
  rfl

/-- An eviction from a frame whose owner's entry is not resident or names another frame is inconsistent (R193, R196). -/
theorem evictPage_of_broken (hbroken : (s.page (s.frame f).owner).resident = false ∨
    (s.page (s.frame f).owner).frame ≠ f) : evictPage f s = raiseFatal s := by
  rw [evictPage, if_pos hbroken]

/-- Settles O42: each check that fails raises, and the rest of the procedure is not begun. -/
theorem brokenPageTablesAreFatal : Obligations.BrokenPageTablesAreFatal := by
  refine ⟨fun s v visit hv => ⟨fun hpop => ?unpopulated, fun hpop hres hbroken => ?broken⟩,
    fun s hall hbroken => ?evicted⟩
  case unpopulated => exact ensurePage_of_inconsistent visit (pageLookup_of_unpopulated hv hpop)
  case broken =>
    exact ensurePage_of_inconsistent visit (pageLookup_of_broken hv hpop hres hbroken)
  case evicted =>
    rw [chooseFrame_of_full hall, evictPage_of_broken hbroken]
    rfl

end
end Sys2Proof.Machine

namespace Sys2Proof.Machine

/-! ## How a command that runs ends, from what its work comes to -/

section
variable {i : Instr} {s u : State}

/-- Work that completes in `u` ends its command with `OK`, from `u` (R121, R132). -/
theorem exec_ends_of_ok (hf : s.fatal = false) (h : i.work (i.entry s) = .ok () u) :
    ends (exec i s) (u.respond .ok) .ok :=
  ⟨by rw [exec_of_not_fatal i hf, h]; rfl, rfl, rfl⟩

/-- Work that completes without a change ends its command with `OK` and nothing changed. -/
theorem exec_endsUnchanged_of_ok (hf : s.fatal = false)
    (h : i.work (i.entry s) = .ok () (i.entry s)) : endsUnchanged (exec i s) s .ok := by
  rw [exec_of_not_fatal i hf, h]
  exact endsUnchanged_respond (i.entry_eq s) .ok

/-- A check that fails before anything is changed ends its command with the error and nothing changed (R247, R253). -/
theorem exec_endsUnchanged_of_raised {k : Status} (hf : s.fatal = false)
    (h : i.work (i.entry s) = .raised k (i.entry s)) : endsUnchanged (exec i s) s k := by
  rw [exec_of_not_fatal i hf, h]
  exact endsUnchanged_respond (i.entry_eq s) k

end

section
variable {s t : State}

/-! ## REGSEG (R214 to R216) -/

/-- A region apart from every other valid region meets none (R215). -/
theorem State.Sound.meetsOther_eq_false (h : s.Sound) {index b r : Nat}
    (hapart : ∀ j < s.cfg.numSegments, j ≠ index → (s.seg j).valid = true →
      apart b r (s.seg j).base.toNat (s.regionSize (s.seg j))) :
    meetsOther index b r s = false := by
  refine List.any_eq_false.2 fun ⟨j, d⟩ hp => ?_
  obtain ⟨rfl, hv⟩ := (h.mem_validEntries j d).1 hp
  have clear := hapart j (h.lt_of_valid hv)
  simp only [regionsMeet, Bool.and_eq_true, bne_iff_ne, decide_eq_true_eq, not_and]
  intro hne hpos
  have := clear hne hv
  omega

theorem regsegChecks_of_outside {index : Nat} {d : Descriptor} (h : s.cfg.numSegments ≤ index) :
    regsegChecks index d s = .raised .segmentFault s := if_pos h

theorem regsegChecks_of_beyond {index : Nat} {d : Descriptor} (hlt : index < s.cfg.numSegments)
    (h : s.cfg.diskSize < d.diskBase.toNat + d.limit.toNat) :
    regsegChecks index d s = .raised .badRequest s := by
  rw [regsegChecks, if_neg (not_le.2 hlt), if_pos h]

/-- The two checks of a region answer the same error (R215). -/
theorem regsegChecks_of_region {index : Nat} {d : Descriptor} (hlt : index < s.cfg.numSegments)
    (hdisk : d.diskBase.toNat + d.limit.toNat ≤ s.cfg.diskSize) (hv : d.valid = true)
    (h : s.cfg.memSize < d.base.toNat + s.regionSize d ∨
      meetsOther index d.base.toNat (s.regionSize d) s = true) :
    regsegChecks index d s = .raised .badRequest s := by
  rw [regsegChecks, if_neg (not_le.2 hlt), if_neg (not_lt.2 hdisk)]
  obtain hmem | hmeets := h
  · rw [if_pos ⟨hv, hmem⟩]
  · split
    · rfl
    · rw [if_pos ⟨hv, hmeets⟩]

/-- A REGSEG whose checks fail ends with their error, before anything is changed (R215). -/
theorem exec_regseg_of_failed_check {index : BitVec 13} {base diskBase : Word32}
    {limit : BitVec 31} {valid : Bool} {k : Status} (hf : s.fatal = false)
    (h : regsegChecks index.toNat ⟨true, base, diskBase, limit, valid, 0⟩ (s.accept 2) =
      .raised k (s.accept 2)) :
    endsUnchanged (exec (.regseg index base diskBase limit valid) s) s k := by
  refine exec_endsUnchanged_of_raised hf ?_
  change regsegWork _ _ (s.accept 2) = _
  rw [regsegWork, h, Res.bind_raised]
  rfl

/-- Settles O44: each check that fails raises its error in the state the checks began in; what is not apart from a valid region meets it. -/
theorem regsegRefusesWhatBreaksInvariants : Obligations.RegsegRefusesWhatBreaksInvariants := by
  intro s index base diskBase limit valid h hf
  refine ⟨fun hout => ?_, fun hlt => ⟨fun hdisk => ?_, fun hdisk hv hregion => ?_⟩⟩
  · exact exec_regseg_of_failed_check hf (regsegChecks_of_outside hout)
  · exact exec_regseg_of_failed_check hf (regsegChecks_of_beyond hlt hdisk)
  · refine exec_regseg_of_failed_check hf (regsegChecks_of_region hlt hdisk hv ?_)
    refine hregion.imp_right fun ⟨j, _, hne, hvj, hmeets⟩ => ?_
    by_contra hapart
    exact hmeets (h.sound.apart_of_not_meetsOther (Bool.eq_false_iff.2 hapart) hne hvj)

/-- What a registration marks: the pages of the descriptor, in paged mode with VALID = 1, and nothing else (R216). -/
theorem regsegPopulate_marks {d : Descriptor} (hwf : s.cfg.wf)
    (hdisk : d.diskBase.toNat + d.limit.toNat ≤ s.cfg.diskSize) :
    ∃ t, regsegPopulate d s = .ok () t ∧ t = { s with pt := t.pt } ∧
      ∀ v, t.page v =
        if d.valid = true ∧ s.mode.pag = true ∧ d.limit ≠ 0 ∧
          firstPage s.cfg d ≤ v ∧ v ≤ lastPage s.cfg d
        then { s.page v with populated := true } else s.page v := by
  unfold regsegPopulate
  split
  next hmarks =>
    obtain ⟨hv, hp, hlimit⟩ := hmarks
    have lastIn := lastPage_lt hwf hlimit hdisk
    have pages := firstPage_add_pageCount (c := s.cfg) hlimit
    obtain ⟨t, ht, hframe⟩ := populatePages_completes (s := s) (v := firstPage s.cfg d)
      (n := pageCount s.cfg d) (by omega)
    refine ⟨t, ht, hframe, fun v => ?_⟩
    simp only [populatePages_page _ _ _ _ ht v, pages, Nat.lt_succ_iff, hv, hp, hlimit, ne_eq,
      not_false_eq_true, true_and]
  next hnot =>
    exact ⟨s, rfl, rfl, fun v => (if_neg fun ⟨hv, hp, hl, _⟩ => hnot ⟨hv, hp, hl⟩).symm⟩

/-- Settles O45: the checks pass, one descriptor is replaced, and then its pages are marked. -/
theorem regsegWritesTheDescriptor : Obligations.RegsegWritesTheDescriptor := by
  intro s index base diskBase limit valid h hf hlt hdisk hregion
  let i := Instr.regseg index base diskBase limit valid
  let d : Descriptor := ⟨true, base, diskBase, limit, valid, 0⟩
  have checks : regsegChecks index.toNat d (i.entry s) = .ok () (i.entry s) :=
    regsegChecks_eq_ok.2 ⟨hlt, hdisk, fun hv =>
      ⟨(hregion hv).1, (h.working.entry i).sound.meetsOther_eq_false (hregion hv).2⟩⟩
  obtain ⟨t, hmarks, hframe, hpages⟩ :=
    regsegPopulate_marks (s := (i.entry s).setSeg index.toNat d) (d := d) h.sound.params hdisk
  have work : i.work (i.entry s) = .ok () t := by
    change regsegWork index.toNat d (i.entry s) = _
    rw [regsegWork, checks, Res.bind_ok, hmarks]
  have seg (j : Nat) : (t.respond .ok).seg j = ((i.entry s).setSeg index.toNat d).seg j := by
    rw [State.respond_seg, hframe]
    rfl
  refine ⟨_, exec_ends_of_ok hf work, ?_, ?_, fun j hj => ?_, hpages⟩
  · rw [hframe]
    rfl
  · rw [seg, State.setSeg_seg_same]
  · rw [seg, State.setSeg_seg_other _ _ _ _ hj]
    rfl

/-! ## WRITE (R211) -/

/-- What `MemWrite` leaves inside ResidentMemory: the bytes written, one notice, or none for no bytes, and nothing else (R64). -/
theorem memWrite_stores {a : Nat} {v : List Byte} (h : a + v.length ≤ s.cfg.memSize) :
    ∃ t, memWrite a v s = .ok () t ∧
      t = { s with
        mem := t.mem
        trace := s.trace ++ if v = [] then [] else [.notice (toReg32 a) (toReg32 v.length)] } ∧
      ∀ b, t.byte b = Memory.read (Memory.write s.mem a v) b := by
  refine ⟨_, (memWrite_eq_ok _ _ _ _ ()).2 ⟨h, rfl⟩, ?_⟩
  split
  next hnil =>
    subst hnil
    exact ⟨by rw [List.append_nil], fun b => (Memory.read_write_outside _ _ _ _ (by
      rw [List.length_nil]; omega)).symm⟩
  next => exact ⟨rfl, fun _ => rfl⟩

theorem bytesAt_write (m : Memory) (a : Nat) (v : List Byte) :
    bytesAt (Memory.read (Memory.write m a v)) a v.length v :=
  ⟨rfl, fun k hk => by rw [Memory.read_write_inside _ _ _ _ hk, List.getElem?_eq_getElem hk]⟩

/-- Settles O43: inside the memory the work is one MemWrite of the payload, and beyond it the one check raises. -/
theorem writeStoresThePayload : Obligations.WriteStoresThePayload := by
  intro s pa len data hlen
  refine ⟨exec_of_fatal_endsUnchanged _, fun hf hout => ?beyond, fun hf hin => ?inside⟩
  case beyond => exact exec_endsUnchanged_of_raised hf (if_pos hout)
  case inside =>
    let i := Instr.write pa len data
    obtain ⟨t, hwrite, hframe, hbytes⟩ :=
      memWrite_stores (s := (i.entry s).enter .access) (a := pa.toNat) (v := data) (hlen ▸ hin)
    have work : i.work (i.entry s) = .ok () t := (if_neg (not_lt.2 hin)).trans hwrite
    have bytes : (t.respond .ok).byte = Memory.read (Memory.write s.mem pa.toNat data) :=
      funext hbytes
    have empty : data = [] ↔ len = 0 := by
      rw [← List.length_eq_zero_iff, hlen, BitVec.toNat_eq]
      rfl
    refine ⟨_, exec_ends_of_ok hf work, ?_, ?_, fun a ha => ?_⟩
    · rw [hframe]
      simp only [empty, hlen, toReg32_toNat]
      rfl
    · rw [bytes, ← hlen]
      exact bytesAt_write _ _ _
    · rw [bytes]
      exact Memory.read_write_outside _ _ _ _ (hlen ▸ ha)

/-! ## INVSEG (R218) -/

/-- Settles O46: the one check, then the valid flag of one descriptor. -/
theorem invsegClearsTheValidFlag : Obligations.InvsegClearsTheValidFlag := by
  intro s index
  refine ⟨exec_of_fatal_endsUnchanged _, fun hf hrefused => ?refused, fun hf hlt hpop => ?cleared⟩
  case refused => exact exec_endsUnchanged_of_raised hf (if_pos hrefused)
  case cleared =>
    have found : ¬ (s.cfg.numSegments ≤ index.toNat ∨ (s.seg index.toNat).populated = false) := by
      simp [hlt, hpop]
    exact ⟨_, exec_ends_of_ok hf (if_neg found), rfl, invalidate_seg_same _ _,
      fun j hj => invalidate_seg_other _ _ _ hj⟩

/-! ## INVPAGE (R221) -/

@[simp] theorem dropPage_page_same (v : Nat) (s : State) :
    (dropPage v s).page v = { s.page v with resident := false } := State.setPage_page_same _ _ _

theorem dropPage_page_other {v w : Nat} (h : w ≠ v) (s : State) :
    (dropPage v s).page w = s.page w := State.setPage_page_other _ _ _ _ h

@[simp] theorem dropPage_frame_same (v : Nat) (s : State) :
    (dropPage v s).frame (s.page v).frame =
      { s.frame (s.page v).frame with resident := false, owner := 0 } :=
  State.setFrame_frame_same _ _ _

theorem dropPage_frame_other {v f : Nat} {s : State} (h : f ≠ (s.page v).frame) :
    (dropPage v s).frame f = s.frame f := State.setFrame_frame_other _ _ _ _ h

/-- Settles O47: a page outside the table is refused, one that is not resident is left alone, and one that is resident is dropped from both tables. -/
theorem invpageFreesTheFrame : Obligations.InvpageFreesTheFrame := by
  intro s vpn
  refine ⟨exec_of_fatal_endsUnchanged _, fun hf hout => ?outside, fun hf hlt hres => ?absent,
    fun hf hlt hres => ?dropped⟩
  case outside => exact exec_endsUnchanged_of_raised hf (if_pos hout)
  case absent =>
    exact exec_endsUnchanged_of_ok hf
      ((if_neg (not_le.2 hlt)).trans (if_neg (Bool.eq_false_iff.1 hres)))
  case dropped =>
    let u := s.accept (Instr.invpage vpn).opcode
    have work : Instr.work (.invpage vpn) (Instr.entry (.invpage vpn) s) =
        .ok () (dropPage vpn.toNat u) :=
      (if_neg (not_le.2 hlt)).trans (if_pos hres)
    refine ⟨_, exec_ends_of_ok hf work, rfl, ?_, fun v hv => ?_, ?_, fun f hne => ?_⟩
    · exact (State.respond_page _ _ _).trans (dropPage_page_same _ u)
    · exact (State.respond_page _ _ _).trans (dropPage_page_other hv u)
    · exact (State.respond_frame _ _ _).trans (dropPage_frame_same _ u)
    · exact (State.respond_frame _ _ _).trans (dropPage_frame_other (s := u) hne)

/-! ## CLEAR (R224) -/

/-- Settles O48: an empty table holds the reset value at every index. -/
theorem clearEmptiesTheTables : Obligations.ClearEmptiesTheTables := fun _ =>
  ⟨exec_of_fatal_endsUnchanged _, fun hf =>
    ⟨_, exec_ends_of_ok hf rfl, rfl, Sparse.get_nil _, Sparse.get_nil _, Sparse.get_nil _⟩⟩

/-! ## SETMODE (R230 to R233) -/

/-- A property of the default holds of every listed entry of a canonical table exactly when it holds of every entry below the table's bound. -/
theorem Sparse.all_iff_of_default {α : Type} [DecidableEq α] {d : α} {t : Sparse α}
    {P : α → Bool} {n : Nat} (hwf : Sparse.wf d t) (hkeys : ∀ p ∈ t, p.1 < n) (hd : P d = true) :
    t.all (fun p => P p.2) = true ↔ ∀ a < n, P (Sparse.get d t a) = true := by
  rw [List.all_eq_true]
  constructor
  · intro hall a _
    by_cases hdefault : Sparse.get d t a = d
    · rw [hdefault, hd]
    · exact hall (a, Sparse.get d t a) ((Sparse.mem_iff d t hwf _ _).2 ⟨rfl, hdefault⟩)
  · rintro hget ⟨a, v⟩ hp
    obtain ⟨rfl, -⟩ := (Sparse.mem_iff d t hwf a v).1 hp
    exact hget a (hkeys _ hp)

/-- The scan over the listed entries is `TablesClear()` as the spec words it (R230). -/
theorem tablesClear_iff (h : s.canonical) : tablesClear s = true ↔ nothingRegistered s := by
  obtain ⟨⟨hst, hstKeys⟩, ⟨hpt, hptKeys⟩, ⟨hrpt, hrptKeys⟩, -⟩ := h
  have segs := Sparse.all_iff_of_default (P := fun d => !d.populated) hst hstKeys rfl
  have pages := Sparse.all_iff_of_default (P := fun e => !e.populated) hpt hptKeys rfl
  have frames := Sparse.all_iff_of_default (P := fun e => !e.resident) hrpt hrptKeys rfl
  simp only [Bool.not_eq_true'] at segs pages frames
  rw [tablesClear, Bool.and_eq_true, Bool.and_eq_true, segs, pages, frames, and_assoc]
  rfl

/-- Settles O49: the legality check, then the check of a change of PAG against the tables, then the write. -/
theorem setmodeWritesOrRefuses : Obligations.SetmodeWritesOrRefuses := by
  intro s seg pag hcanonical
  refine ⟨exec_of_fatal_endsUnchanged _, fun hf hpag hseg => ?illegal, fun hf hlegal => ?legal⟩
  case illegal => exact exec_endsUnchanged_of_raised hf (if_pos ⟨hpag, hseg⟩)
  have legal : ¬ (pag = true ∧ seg = false) := fun ⟨hpag, hseg⟩ => by simp [hpag, hseg] at hlegal
  refine ⟨fun hchange hregistered => ?registered, fun hfree => ?written⟩
  case registered =>
    have occupied : tablesClear s = false :=
      Bool.eq_false_iff.2 fun hclear => hregistered ((tablesClear_iff hcanonical).1 hclear)
    exact exec_endsUnchanged_of_raised hf ((if_neg legal).trans (if_pos ⟨hchange, occupied⟩))
  case written =>
    have allowed : ¬ (pag ≠ s.mode.pag ∧ tablesClear s = false) := fun ⟨hchange, hoccupied⟩ =>
      Bool.eq_false_iff.1 hoccupied
        ((tablesClear_iff hcanonical).2 (hfree.resolve_left hchange))
    exact ⟨_, exec_ends_of_ok hf ((if_neg legal).trans (if_neg allowed)), rfl⟩

end
end Sys2Proof.Machine

/-! PROOFS. The state after reset. -/

namespace Sys2Proof.Machine

/-! ## The state after reset (R271) -/

/-- Settles O1: the registers hold their reset values by definition, and a table that lists nothing reads as its empty entry at every index. -/
theorem resetStateIsTheSpecs : Obligations.ResetStateIsTheSpecs := by
  intro c
  refine ⟨?seg, ?pag, ?clock, ?fatal, ?fsm, ?status, ?descriptors, ?pages, ?frames⟩
  case seg | pag | clock | fatal | fsm | status => rfl
  case descriptors => exact State.init_seg c
  case pages => exact State.init_page c
  case frames => exact State.init_frame c

end Sys2Proof.Machine
